-- ==== Sys2Proof/Word.lean ====
section
/-! DEFINITION. The words of QRCORE: the 32-bit bus word, the 8-bit element, the 20-bit bus address
(spec/20_memory.md R81, R83). Bit 0 is the least significant bit (spec/00_scope.md R10). -/

namespace Sys2Proof

/-- A bus word and a register: 32 bits (R81, 10_state.md section 2). -/
abbrev Word := BitVec 32

/-- An element of the field, a polynomial coefficient, a codeword: 8 bits (R83). -/
abbrev Byte := BitVec 8

/-- A byte address on the host bus (R81). -/
abbrev BusAddr := BitVec 20

end Sys2Proof
end

