-- ==== Sys2Proof/Config.lean ====
section
/-! DEFINITION. What is fixed for QRCORE (spec/00_scope.md R7), the vocabulary of its memories, and the
FREE VALUES: opaque constants without a body, one for each kind of value the spec leaves unspecified
(spec/93_implementation_defined.md U1 to U5). Each takes the number of the draw, so that two draws are two
unrelated values. No statement can know what they are. -/

namespace Sys2Proof

/-- The value of a grid cell (00_scope.md R14). -/
inductive CellValue where
  | unset
  | light
  | dark
deriving DecidableEq, Repr, Inhabited

/-- An error-correction level (00_scope.md R15). -/
inductive Level where
  | L
  | M
  | Q
  | H
deriving DecidableEq, Repr

/-- The five memories of 8-bit elements (10_state.md R45 to R48). -/
inductive MemId where
  | polyA
  | polyB
  | polyR
  | cwIn
  | cwOut
deriving DecidableEq, Repr

namespace Config

/-- P_MAX: coefficient slots of a polynomial register (R7). -/
def pMax : Nat := 256

/-- CW_MAX: entries of CW_IN and of CW_OUT (R7). -/
def cwMax : Nat := 4096

/-- DIM_MAX: the grid side of version 40 (R7). -/
def dimMax : Nat := 177

/-- Elements of a memory of bytes (10_state.md R45 to R48). -/
def memSize : MemId → Nat
  | .polyA => pMax
  | .polyB => pMax
  | .polyR => pMax
  | .cwIn => cwMax
  | .cwOut => cwMax

/-- FREE VALUE (U1, U2, U4): element `k` of memory `id` while it has not been written since draw `d`. -/
opaque freeByte (id : MemId) (d k : Nat) : Byte

/-- FREE VALUE (U1, U2, U4): grid cell with key `k` while it has not been written since draw `d`. -/
opaque freeCell (d k : Nat) : CellValue

/-- FREE VALUE (U2, U4): the `i`-th 32-bit register made unspecified by draw `d`. -/
opaque freeWord (d i : Nat) : Word

/-- FREE VALUE (U3): the word a host read returns while BUSY = 1 where R90 leaves it unspecified. -/
opaque freeRead (d : Nat) : Word

/-- FREE VALUE (U2, U4): the contents of polynomial register R made unspecified by draw `d`. -/
opaque freePoly (d : Nat) : List Byte

/-- FREE VALUE (U4): A_LEN or B_LEN made unspecified by draw `d`. -/
opaque freePolyLen (d : Nat) : BitVec 9

/-- FREE VALUE (U2, U4): CW_LEN made unspecified by draw `d`. -/
opaque freeCwLen (d : Nat) : BitVec 13

/-- FREE VALUE (U2, U4): GRID_VER made unspecified by draw `d`, any 6-bit number. -/
opaque freeGridVer (d : Nat) : BitVec 6

/-- FREE VALUE: one less than the version whose area a GRID_VER of 41..63 stands for. Only an unspecified GRID_VER is
one of these, and 10_state.md R43 gives it no area (assumption log 6). -/
opaque areaVersion (g : BitVec 6) : Fin 40

/-- FREE VALUE (U5, P1; 00_scope.md R8): LATENCY of the command word `w` accepted at draw `d`, counted in host
actions that land before its completion. -/
opaque latency (d : Nat) (w : Word) : Nat

end Config

end Sys2Proof
end

