-- ==== Sys2Proof/Syntax.lean ====
section
/-! DEFINITION. The command set of QRCORE as syntax: one constructor for each row of
spec/opcode_table.json (spec/30_encoding.md R114), with the operands of R112. -/

namespace Sys2Proof

/-- A command. GF_EXP's operand is the integer sext_16(IMM16); A8 and B8 are bytes (R112). -/
inductive Instr where
  | nop
  | gfExp (n : Int)
  | gfLog (a : Byte)
  | gfMul (a b : Byte)
  | polyMul
  | polyMod
  | polyGen (k : Byte)
  | polyMoveRA
  | polyMoveRB
  | rsEncode
  | gridClear
  | placeFinder
  | placeAlign
  | placeTiming
  | placeFormat
  | placeVersion
  | mapData
  | score
  | build
  | autobuild
deriving DecidableEq, Repr

end Sys2Proof
end

