-- ==== Sys2Proof/WellFormed.lean ====
section
/-! DEFINITION. Which commands an assembler accepts (spec/30_encoding.md R120: it rejects an operand out of
its range). A byte operand is in its range by its type, so GF_EXP's exponent is the one operand to check. -/

namespace Sys2Proof

/-- The check of R112 and R120: GF_EXP's exponent lies in -32768..32767. -/
def Instr.wellFormed : Instr → Bool
  | .nop => true
  | .gfExp n => decide (-32768 ≤ n) && decide (n ≤ 32767)
  | .gfLog _ => true
  | .gfMul _ _ => true
  | .polyMul => true
  | .polyMod => true
  | .polyGen _ => true
  | .polyMoveRA => true
  | .polyMoveRB => true
  | .rsEncode => true
  | .gridClear => true
  | .placeFinder => true
  | .placeAlign => true
  | .placeTiming => true
  | .placeFormat => true
  | .placeVersion => true
  | .mapData => true
  | .score => true
  | .build => true
  | .autobuild => true

/-- A command an assembler accepts. -/
abbrev WellFormed (i : Instr) : Prop := i.wellFormed = true

end Sys2Proof
end

