-- ==== Sys2Proof/Decode.lean ====
section
/-! DEFINITION. Decoding a command word (spec/30_encoding.md R110, R111, R112, R114) and, after it, the
encoder written from the same tables. Decoding reads the word alone and refuses by name every word that
is not a row of R114 with its reserved bits 0 (R115, R116, R119). -/

namespace Sys2Proof

/-- Why a word is no command; both end the command with ILLEGAL_CMD (R115, R116). -/
inductive DecodeError where
  /-- The opcode is none of R114 (R115). -/
  | illegalOpcode
  /-- A reserved bit of the opcode's format is 1 (R116). -/
  | reservedBits
deriving DecidableEq, Repr

/-- The four command formats (R111). -/
inductive Format where
  | N
  | I16
  | B1
  | B2
deriving DecidableEq, Repr

/-- OP = w[7:0] (R111). -/
def opField (w : Word) : Byte := w.extractLsb' 0 8

/-- A8 = w[23:16] (R111). -/
def a8Field (w : Word) : Byte := w.extractLsb' 16 8

/-- B8 = w[31:24] (R111). -/
def b8Field (w : Word) : Byte := w.extractLsb' 24 8

/-- IMM16 = w[31:16] (R111). -/
def imm16Field (w : Word) : BitVec 16 := w.extractLsb' 16 16

/-- Every reserved bit of the format is 0 (R110). -/
def reservedClear (f : Format) (w : Word) : Bool :=
  match f with
  | .N => w.extractLsb' 8 24 == 0
  | .I16 => w.extractLsb' 8 8 == 0
  | .B2 => w.extractLsb' 8 8 == 0
  | .B1 => w.extractLsb' 24 8 == 0 && w.extractLsb' 8 8 == 0

/-- The opcode map: the format of an opcode and the command with the operands of R112 (R114). -/
def opcodeRow (w : Word) : Option (Format × Instr) :=
  match (opField w).toNat with
  | 0x00 => some (.N, .nop)
  | 0x01 => some (.I16, .gfExp (imm16Field w).toInt)
  | 0x02 => some (.B1, .gfLog (a8Field w))
  | 0x03 => some (.B2, .gfMul (a8Field w) (b8Field w))
  | 0x10 => some (.N, .polyMul)
  | 0x11 => some (.N, .polyMod)
  | 0x12 => some (.B1, .polyGen (a8Field w))
  | 0x13 => some (.N, .polyMoveRA)
  | 0x14 => some (.N, .polyMoveRB)
  | 0x20 => some (.N, .rsEncode)
  | 0x30 => some (.N, .gridClear)
  | 0x31 => some (.N, .placeFinder)
  | 0x32 => some (.N, .placeAlign)
  | 0x33 => some (.N, .placeTiming)
  | 0x34 => some (.N, .placeFormat)
  | 0x35 => some (.N, .placeVersion)
  | 0x36 => some (.N, .mapData)
  | 0x37 => some (.N, .score)
  | 0x38 => some (.N, .build)
  | 0x39 => some (.N, .autobuild)
  | _ => none

/-- The decoder of R110, total on every word. -/
def decode (w : Word) : Except DecodeError Instr :=
  match opcodeRow w with
  | none => .error .illegalOpcode
  | some (f, i) => if reservedClear f w then .ok i else .error .reservedBits

/-- The instruction read from an opcode-table word of `nbits` bits; every row of the table is one 32-bit
word (R118), so bits above `nbits` are 0 and a longer row does not exist. -/
def decodeTableWord (nbits w : Nat) : Option Instr :=
  match decode (BitVec.ofNat 32 (w % 2 ^ nbits)) with
  | .ok i => some i
  | .error _ => none

/-- A word of format N (R111). -/
def encodeN (op : Byte) : Word := (0 : BitVec 24) ++ op

/-- A word of format I16 (R111). -/
def encodeI16 (imm : BitVec 16) (op : Byte) : Word := imm ++ (0 : Byte) ++ op

/-- A word of format B2, and of format B1 with `b` = 0 (R111). -/
def encodeB (b a op : Byte) : Word := b ++ a ++ (0 : Byte) ++ op

/-- The word of a command (R111, R114, R120). -/
def encode : Instr → Word
  | .nop => encodeN 0x00
  | .gfExp n => encodeI16 (BitVec.ofInt 16 n) 0x01
  | .gfLog a => encodeB 0 a 0x02
  | .gfMul a b => encodeB b a 0x03
  | .polyMul => encodeN 0x10
  | .polyMod => encodeN 0x11
  | .polyGen k => encodeB 0 k 0x12
  | .polyMoveRA => encodeN 0x13
  | .polyMoveRB => encodeN 0x14
  | .rsEncode => encodeN 0x20
  | .gridClear => encodeN 0x30
  | .placeFinder => encodeN 0x31
  | .placeAlign => encodeN 0x32
  | .placeTiming => encodeN 0x33
  | .placeFormat => encodeN 0x34
  | .placeVersion => encodeN 0x35
  | .mapData => encodeN 0x36
  | .score => encodeN 0x37
  | .build => encodeN 0x38
  | .autobuild => encodeN 0x39

end Sys2Proof
end

