-- ==== Sys2Proof/Machine/State.lean ====
section
/-! DEFINITION. The state of QRCORE as plain data: the registers of spec/10_state.md R31 to R44, the memories
of R45 to R49, the hidden sequencer state of R52, and four fields of the model's own (`draws`, `host`,
`busData`, and the second argument of `Sequencer.busy`). ID, EXP, LOG, STATUS.BUSY and IRQ are constants or
functions of it and are computed (assumption log 14). -/

namespace Sys2Proof.Machine

/-- No step of QRCORE faults: no host access faults (20_memory.md R82) and every command completes
(93_implementation_defined.md: "No entry is stuck: every command completes"). So there is no constructor. -/
inductive Fault where
deriving DecidableEq, Repr

/-- Why the model refuses a step. -/
inductive Refusal where
  /-- Raised by the dispatch of a command that has no meaning in the model yet (safe: it stops where the
  hardware goes on). No arm of the dispatch uses it now. -/
  | notModelled (mnemonic : String)
deriving DecidableEq, Repr

/-- The error codes that can occur (60_exceptions.md R301); 3 and 9 to 15 never do (R303). -/
inductive ErrorCode where
  | none
  | rangeError
  | capacityOverflow
  | domainError
  | bufferBounds
  | illegalCmd
  | polyOverflow
  | incompleteGrid
deriving DecidableEq, Repr

/-- CFG by its fields (10_state.md R35); its reserved bits read 0 and ignore writes. -/
structure Cfg where
  version : BitVec 6
  ecl : BitVec 2
  mask : BitVec 3
  test : Bool
deriving DecidableEq, Repr

/-- What an element that a memory does not list reads as: one known value, or a free value for each element,
the one of a numbered draw (10_state.md R54). -/
inductive Fill (α : Type) where
  | all (v : α)
  | unspecified (draw : Nat)
deriving DecidableEq, Repr

/-- A memory: what an unlisted element reads as, and the listed elements in rising order of index. For the
memories of bytes `cells` is a list of `Host.Cell`. -/
structure Memory (α : Type) where
  fill : Fill α
  cells : List (Nat × α)
deriving DecidableEq, Repr

/-- The canonical form: indices strictly rising and no entry equal to what an unlisted element reads as.
The value of a free element is nobody's to compare with: a written element is listed (log 3). -/
abbrev Memory.wf {α : Type} (m : Memory α) : Prop :=
  m.cells.Pairwise (fun a b => a.1 < b.1) ∧ ∀ c ∈ m.cells, m.fill ≠ .all c.2

/-- The sequencer (10_state.md R52): idle, or busy with the accepted word. `landing` is the model's own: how
many host actions may still land before the completion (log 2). -/
inductive Sequencer where
  | idle
  | busy (pending : Word) (landing : Nat)
deriving DecidableEq, Repr

/-- What the host does next (20_memory.md R82, 30_encoding.md R121 WAIT, 70_reset_and_hazards.md R340). -/
inductive HostAction where
  | read (addr : BusAddr)
  | write (addr : BusAddr) (v : Word)
  | wait
  | hardReset
deriving DecidableEq, Repr

/-- The whole state (10_state.md R30). -/
structure State where
  seq : Sequencer
  irqEn : Bool
  done : Bool
  err : Bool
  werr : Bool
  errCode : ErrorCode
  errInfo : Word
  lastCmd : Word
  cfg : Cfg
  res0 : Word
  res1 : Word
  res2 : Word
  res3 : Word
  res4 : Word
  aLen : BitVec 9
  bLen : BitVec 9
  rLen : Fin 257
  dataLen : BitVec 13
  cwLen : BitVec 13
  gridVer : BitVec 6
  trialScore : Vector Word 8
  polyA : Memory Byte
  polyB : Memory Byte
  polyR : Memory Byte
  cwIn : Memory Byte
  cwOut : Memory Byte
  grid : Memory CellValue
  draws : Nat
  host : List HostAction
  busData : Word
deriving DecidableEq, Repr

/-- A memory of which nothing has been written since draw `d`. -/
def Memory.unwritten {α : Type} (d : Nat) : Memory α := { fill := .unspecified d, cells := [] }

/-- The state after a hardware reset (10_state.md R55, 70_reset_and_hazards.md R340): every register 0, the
sequencer idle, every memory unspecified (draw 0). The model's own fields: the next draw is 1, no host action
is waiting, no word has been read (log 1, 11, 12). -/
def State.reset : State where
  seq := .idle
  irqEn := false
  done := false
  err := false
  werr := false
  errCode := .none
  errInfo := 0
  lastCmd := 0
  cfg := { version := 0, ecl := 0, mask := 0, test := false }
  res0 := 0
  res1 := 0
  res2 := 0
  res3 := 0
  res4 := 0
  aLen := 0
  bLen := 0
  rLen := 0
  dataLen := 0
  cwLen := 0
  gridVer := 0
  trialScore := #v[0, 0, 0, 0, 0, 0, 0, 0]
  polyA := .unwritten 0
  polyB := .unwritten 0
  polyR := .unwritten 0
  cwIn := .unwritten 0
  cwOut := .unwritten 0
  grid := .unwritten 0
  draws := 1
  host := []
  busData := 0

end Sys2Proof.Machine
end

