-- ==== Sys2Proof/Machine/Ops.lean ====
section
/-! DEFINITION. The named operations over memories and registers, accepting a command (spec/60_exceptions.md
R306), ending it (R308) and making destinations unspecified (R307). QRCORE has no trap: raising an error is
the whole of its exception entry, and there is no return from one (R310). -/

namespace Sys2Proof.Machine

/-! ### Memories -/

/-- The value listed for index `k`. -/
def findCell {α : Type} (k : Nat) : List (Nat × α) → Option α
  | [] => none
  | c :: t => if c.1 = k then some c.2 else findCell k t

/-- The list with `v` at index `k`, indices still rising. -/
def insertCell {α : Type} (k : Nat) (v : α) : List (Nat × α) → List (Nat × α)
  | [] => [(k, v)]
  | c :: t => if k < c.1 then (k, v) :: c :: t else if k = c.1 then (k, v) :: t else c :: insertCell k v t

/-- The list without an entry for index `k`. -/
def eraseCell {α : Type} (k : Nat) : List (Nat × α) → List (Nat × α)
  | [] => []
  | c :: t => if c.1 = k then eraseCell k t else c :: eraseCell k t

/-- What element `k` reads as when it is not listed; `free` gives the values of a draw (10_state.md R54). -/
def Fill.value {α : Type} (free : Nat → Nat → α) (k : Nat) : Fill α → α
  | .all v => v
  | .unspecified d => free d k

/-- Element `k` of a memory. -/
def Memory.read {α : Type} (free : Nat → Nat → α) (m : Memory α) (k : Nat) : α :=
  (findCell k m.cells).getD (m.fill.value free k)

/-- The memory with element `k` written; writing what an unlisted element reads as removes the entry. -/
def Memory.write {α : Type} [DecidableEq α] (m : Memory α) (k : Nat) (v : α) : Memory α :=
  { m with cells := if m.fill = .all v then eraseCell k m.cells else insertCell k v m.cells }

/-- Elements `k`, `k + 1`, … written with the values of a list, in order. -/
def Memory.writeFrom {α : Type} [DecidableEq α] (m : Memory α) (k : Nat) : List α → Memory α
  | [] => m
  | v :: t => (m.write k v).writeFrom (k + 1) t

/-- One memory of bytes. -/
def State.mem (s : State) : MemId → Memory Byte
  | .polyA => s.polyA
  | .polyB => s.polyB
  | .polyR => s.polyR
  | .cwIn => s.cwIn
  | .cwOut => s.cwOut

/-- One memory of bytes replaced. -/
def State.setMem (s : State) (id : MemId) (m : Memory Byte) : State :=
  match id with
  | .polyA => { s with polyA := m }
  | .polyB => { s with polyB := m }
  | .polyR => { s with polyR := m }
  | .cwIn => { s with cwIn := m }
  | .cwOut => { s with cwOut := m }

/-- Element `k` of memory `id` (10_state.md R45 to R48): THE read of one byte. -/
def State.elem (s : State) (id : MemId) (k : Nat) : Byte := (s.mem id).read (Config.freeByte id) k

/-- Element `k` of memory `id` written. -/
def State.setElem (s : State) (id : MemId) (k : Nat) (v : Byte) : State :=
  s.setMem id ((s.mem id).write k v)

/-- Elements 0, …, n - 1 of memory `id`. -/
def State.elems (s : State) (id : MemId) (n : Nat) : List Byte := (List.range n).map (s.elem id)

/-- The index of cell (row, col) in GRID: the word index of its bus window (10_state.md R49). -/
def gridKey (r c : Nat) : Nat := r * 256 + c

/-- Cell (row, col) of GRID as stored: THE read of one cell. -/
def State.cell (s : State) (r c : Nat) : CellValue := s.grid.read Config.freeCell (gridKey r c)

/-- DIM(v) (00_scope.md R7). -/
def dimOf (v : Nat) : Nat := 4 * v + 17

/-- The version the grid commands work with: GRID_VER, and for the values 41..63, to which R43 gives no area, a version
that nothing determines (log 6). -/
def State.version (s : State) : Nat :=
  if s.gridVer.toNat ≤ 40 then s.gridVer.toNat else (Config.areaVersion s.gridVer).val + 1

/-- The side of the active area: DIM(GRID_VER), or 0 when GRID_VER = 0 (10_state.md R43). -/
def State.dim (s : State) : Nat := if s.gridVer = 0 then 0 else dimOf s.version

/-! ### Polynomial register R -/

/-- canon(p): leading zero elements removed (00_scope.md R16). -/
def canon (p : List Byte) : List Byte := p.dropWhile (· == 0)

/-- R <- p for a canonical p of at most 256 coefficients; the elements above become unspecified
(41_poly.md R162, 10_state.md R46). -/
def State.setR (s : State) (p : List Byte) : State :=
  { s with
    rLen := Fin.ofNat 257 p.length
    polyR := (Memory.unwritten s.draws).writeFrom 0 p
    draws := s.draws + 1 }

/-! ### Destinations and making them unspecified -/

/-- What a command may write besides the status (30_encoding.md R117). R stands for R_LEN with POLY_R, A for
A_LEN with POLY_A, B for B_LEN with POLY_B. -/
inductive Dest where
  | res0
  | res1
  | res2
  | res3
  | res4
  | regR
  | regA
  | regB
  | cwOut
  | cwLen
  | gridVer
  | grid
  | trialScore
deriving DecidableEq, Repr

/-- One destination takes an unspecified value: a fresh draw (60_exceptions.md R307, 93 U2 and U4). R stays a
canonical polynomial of at most 256 coefficients, as 10_state.md R40 and R46 say it always is (log 5). -/
def State.spoilOne (s : State) : Dest → State
  | .res0 => { s with res0 := Config.freeWord s.draws 0, draws := s.draws + 1 }
  | .res1 => { s with res1 := Config.freeWord s.draws 1, draws := s.draws + 1 }
  | .res2 => { s with res2 := Config.freeWord s.draws 2, draws := s.draws + 1 }
  | .res3 => { s with res3 := Config.freeWord s.draws 3, draws := s.draws + 1 }
  | .res4 => { s with res4 := Config.freeWord s.draws 4, draws := s.draws + 1 }
  | .regR => s.setR ((canon (Config.freePoly s.draws)).take Config.pMax)
  | .regA => { s with aLen := Config.freePolyLen s.draws, polyA := .unwritten s.draws, draws := s.draws + 1 }
  | .regB => { s with bLen := Config.freePolyLen s.draws, polyB := .unwritten s.draws, draws := s.draws + 1 }
  | .cwOut => { s with cwOut := .unwritten s.draws, draws := s.draws + 1 }
  | .cwLen => { s with cwLen := Config.freeCwLen s.draws, draws := s.draws + 1 }
  | .gridVer => { s with gridVer := Config.freeGridVer s.draws, draws := s.draws + 1 }
  | .grid => { s with grid := .unwritten s.draws, draws := s.draws + 1 }
  | .trialScore =>
    { s with trialScore := Vector.ofFn (fun m => Config.freeWord s.draws m.val), draws := s.draws + 1 }

/-- Every destination of a list takes an unspecified value. -/
def State.spoil (s : State) (ds : List Dest) : State := ds.foldl State.spoilOne s

/-! ### Acceptance, errors, completion -/

/-- An error of a command with its information (60_exceptions.md R301). -/
inductive CmdError where
  /-- A version, or GRID_VER = 0, outside its range. -/
  | rangeVersion (v : Nat)
  /-- A length above P_MAX in polynomial operand 0 (A) or 1 (B). -/
  | rangeLength (operand length : Nat)
  | capacityOverflow (cwLen : Nat)
  /-- glog of 0 at a coefficient index, or 0xFFFF for an empty operand. -/
  | domain (operand index : Nat)
  | bufferBounds (offset : Nat)
  | illegalCmd (w : Word)
  | polyOverflow (n : Nat)
  | incompleteGrid (unset : Nat)
deriving DecidableEq, Repr

/-- The code of an error (R301). -/
def CmdError.code : CmdError → ErrorCode
  | .rangeVersion _ => .rangeError
  | .rangeLength _ _ => .rangeError
  | .capacityOverflow _ => .capacityOverflow
  | .domain _ _ => .domainError
  | .bufferBounds _ => .bufferBounds
  | .illegalCmd _ => .illegalCmd
  | .polyOverflow _ => .polyOverflow
  | .incompleteGrid _ => .incompleteGrid

/-- The value an error records in ERR_INFO (R301). -/
def CmdError.info : CmdError → Word
  | .rangeVersion v => BitVec.ofNat 32 v
  | .rangeLength operand length => BitVec.ofNat 32 (operand * 65536 + length)
  | .capacityOverflow n => BitVec.ofNat 32 n
  | .domain operand index => BitVec.ofNat 32 (operand * 65536 + index)
  | .bufferBounds off => BitVec.ofNat 32 off
  | .illegalCmd w => w
  | .polyOverflow n => BitVec.ofNat 32 n
  | .incompleteGrid u => BitVec.ofNat 32 u

/-- Acceptance of word `w` (R306): LAST_CMD takes it, DONE, ERR, ERR_CODE and ERR_INFO are cleared, WERR stays,
BUSY becomes 1. The completion comes after at most LATENCY further host actions (00_scope.md R8, log 2). -/
def State.accept (s : State) (w : Word) : State :=
  { s with
    seq := .busy w (Config.latency s.draws w)
    lastCmd := w
    done := false
    err := false
    errCode := .none
    errInfo := 0
    draws := s.draws + 1 }

/-- Completion without an error (R308). -/
def State.complete (s : State) : Host.Outcome State Fault Refusal :=
  .next { s with seq := .idle, done := true }

/-- Completion with an error (R305, R308): the one exception entry of QRCORE. ERR, ERR_CODE and ERR_INFO record
it; nothing else is saved, no mode changes and control goes nowhere (R310). -/
def State.raise (s : State) (e : CmdError) : Host.Outcome State Fault Refusal :=
  .next { s with seq := .idle, err := true, errCode := e.code, errInfo := e.info }

end Sys2Proof.Machine
end

