-- ==== Sys2Proof/Machine/Flags.lean ====
section
/-! DEFINITION. STATUS, CTRL and CFG as words, and the IRQ output (spec/10_state.md R32, R33, R35;
spec/60_exceptions.md R320). QRCORE has no condition codes: STATUS takes their role (R56). -/

namespace Sys2Proof.Machine

/-- The 4-bit number of an error code (60_exceptions.md R301). -/
def ErrorCode.number : ErrorCode → BitVec 4
  | .none => 0
  | .rangeError => 1
  | .capacityOverflow => 2
  | .domainError => 4
  | .bufferBounds => 5
  | .illegalCmd => 6
  | .polyOverflow => 7
  | .incompleteGrid => 8

/-- STATUS.BUSY: the sequencer's phase (R33, R52). -/
def State.busy (s : State) : Bool :=
  match s.seq with
  | .idle => false
  | .busy _ _ => true

/-- STATUS as a host reads it (R33): [0] BUSY, [1] DONE, [2] ERR, [3] WERR, [11:8] ERR_CODE, the rest 0. -/
def State.statusWord (s : State) : Word :=
  (0 : BitVec 20) ++ s.errCode.number ++ (0 : BitVec 4) ++ BitVec.ofBool s.werr ++ BitVec.ofBool s.err
    ++ BitVec.ofBool s.done ++ BitVec.ofBool s.busy

/-- A host write to STATUS: each of DONE, ERR, WERR is cleared where the word has a 1 (R33, W1C). -/
def State.writeStatus (s : State) (v : Word) : State :=
  { s with
    done := s.done && !v.getLsbD 1
    err := s.err && !v.getLsbD 2
    werr := s.werr && !v.getLsbD 3 }

/-- CTRL as a host reads it: SOFT_RESET reads 0 (R32). -/
def State.ctrlWord (s : State) : Word := (0 : BitVec 30) ++ BitVec.ofBool s.irqEn ++ (0 : BitVec 1)

/-- CFG as a host reads it (R35). -/
def Cfg.word (c : Cfg) : Word :=
  (0 : BitVec 15) ++ BitVec.ofBool c.test ++ (0 : BitVec 1) ++ c.mask ++ (0 : BitVec 2) ++ c.ecl ++ (0 : BitVec 2)
    ++ c.version

/-- The fields a host write of `v` to CFG stores; reserved bits are ignored (R35). -/
def cfgOfWord (v : Word) : Cfg where
  version := v.extractLsb' 0 6
  ecl := v.extractLsb' 8 2
  mask := v.extractLsb' 12 3
  test := v.getLsbD 16

/-- The IRQ output, a level (60_exceptions.md R320). -/
def State.irq (s : State) : Bool := s.irqEn && (s.done || s.err)

end Sys2Proof.Machine
end

