-- ==== Sys2Proof/Machine/Operands.lean ====
section
/-! DEFINITION. The implicit operands of the commands (spec/30_encoding.md R117): polynomial registers as
operands (41_poly.md R160, R161), the level of CFG.ECL (00_scope.md R15), and the destinations each command
writes. -/

namespace Sys2Proof.Machine

/-- The level of a level code: M = 0, L = 1, H = 2, Q = 3 (R15). -/
def levelOfCode (e : BitVec 2) : Level :=
  if e = 0 then .M else if e = 1 then .L else if e = 2 then .H else .Q

/-- The 2-bit code of a level (R15). -/
def codeOfLevel : Level → BitVec 2
  | .M => 0
  | .L => 1
  | .H => 2
  | .Q => 3

/-- Operand A in canonical form (R160). -/
def State.operandA (s : State) : List Byte := canon (s.elems .polyA s.aLen.toNat)

/-- Operand B in canonical form (R160). -/
def State.operandB (s : State) : List Byte := canon (s.elems .polyB s.bLen.toNat)

/-- The coefficients of R: R_LEN elements of POLY_R (10_state.md R46). -/
def State.coeffsR (s : State) : List Byte := s.elems .polyR s.rLen.val

/-- The length check of a command that reads A and B, A first (R161). -/
def State.lengthCheck (s : State) : Except CmdError Unit :=
  if s.aLen.toNat > Config.pMax then .error (.rangeLength 0 s.aLen.toNat)
  else if s.bLen.toNat > Config.pMax then .error (.rangeLength 1 s.bLen.toNat)
  else .ok ()

/-- The first CW_LEN codewords of CW_OUT. -/
def State.codewords (s : State) : List Byte := s.elems .cwOut s.cwLen.toNat

/-- The "writes" column of R117. -/
def destsOf : Instr → List Dest
  | .nop => []
  | .gfExp _ => [.res0]
  | .gfLog _ => [.res0]
  | .gfMul _ _ => [.res0]
  | .polyMul => [.regR]
  | .polyMod => [.regR]
  | .polyGen _ => [.regR]
  | .polyMoveRA => [.regA]
  | .polyMoveRB => [.regB]
  | .rsEncode => [.cwOut, .cwLen, .res0]
  | .gridClear => [.gridVer, .grid]
  | .placeFinder => [.grid]
  | .placeAlign => [.grid]
  | .placeTiming => [.grid]
  | .placeFormat => [.grid]
  | .placeVersion => [.grid]
  | .mapData => [.grid]
  | .score => [.res0, .res1, .res2, .res3, .res4]
  | .build => [.gridVer, .grid]
  | .autobuild => [.gridVer, .grid, .res0, .res1, .trialScore]

/-- A failed command: every destination of its row takes a free value and the error is recorded (60_exceptions.md R307,
R308; log 4). -/
def State.failUnspecified (s : State) (i : Instr) (e : CmdError) : Host.Outcome State Fault Refusal :=
  (s.spoil (destsOf i)).raise e

end Sys2Proof.Machine
end

