-- ==== Sys2Proof/Machine/Bus.lean ====
section
/-! DEFINITION. The host bus (spec/20_memory.md): the address map R84, reads and writes idle and while BUSY
(R85 to R90), the soft reset and the hardware reset (spec/70_reset_and_hazards.md R340, R342). -/

namespace Sys2Proof.Machine

/-- What an address names (R84); a GRID cell by row and column. -/
inductive Target where
  | id
  | ctrl
  | status
  | cmd
  | cfg
  | errInfo
  | lastCmd
  | res0
  | res1
  | res2
  | res3
  | res4
  | aLen
  | bLen
  | rLen
  | dataLen
  | cwLen
  | gridVer
  | trialScore (m : Nat)
  | element (id : MemId) (k : Nat)
  | cell (r c : Nat)
  | unmapped
deriving DecidableEq, Repr

/-- The target of word index `k` = addr[19:2], that is of byte offset 4k (R84). -/
def targetOfIndex (k : Nat) : Target :=
  if k = 0x000 / 4 then .id
  else if k = 0x004 / 4 then .ctrl
  else if k = 0x008 / 4 then .status
  else if k = 0x00C / 4 then .cmd
  else if k = 0x010 / 4 then .cfg
  else if k = 0x014 / 4 then .errInfo
  else if k = 0x018 / 4 then .lastCmd
  else if k = 0x020 / 4 then .res0
  else if k = 0x024 / 4 then .res1
  else if k = 0x028 / 4 then .res2
  else if k = 0x02C / 4 then .res3
  else if k = 0x030 / 4 then .res4
  else if k = 0x040 / 4 then .aLen
  else if k = 0x044 / 4 then .bLen
  else if k = 0x048 / 4 then .rLen
  else if k = 0x050 / 4 then .dataLen
  else if k = 0x054 / 4 then .cwLen
  else if k = 0x058 / 4 then .gridVer
  else if 0x060 / 4 ≤ k ∧ k ≤ 0x07C / 4 then .trialScore (k - 0x060 / 4)
  else if 0x01000 / 4 ≤ k ∧ k ≤ 0x013FC / 4 then .element .polyA (k - 0x01000 / 4)
  else if 0x01400 / 4 ≤ k ∧ k ≤ 0x017FC / 4 then .element .polyB (k - 0x01400 / 4)
  else if 0x01800 / 4 ≤ k ∧ k ≤ 0x01BFC / 4 then .element .polyR (k - 0x01800 / 4)
  else if 0x04000 / 4 ≤ k ∧ k ≤ 0x07FFC / 4 then .element .cwIn (k - 0x04000 / 4)
  else if 0x08000 / 4 ≤ k ∧ k ≤ 0x0BFFC / 4 then .element .cwOut (k - 0x08000 / 4)
  else if 0x40000 / 4 ≤ k ∧ k ≤ 0x7FFFC / 4 then .cell ((k - 0x40000 / 4) / 256) ((k - 0x40000 / 4) % 256)
  else .unmapped

/-- The target of an address; bits 1:0 are ignored (R82). -/
def targetOf (addr : BusAddr) : Target := targetOfIndex (addr.toNat / 4)

/-- The 2-bit code of a cell value: unset 0, light 2, dark 3 (10_state.md R49). -/
def cellCode (v : CellValue) : Word :=
  match v with
  | .unset => 0
  | .light => 2
  | .dark => 3

/-- The cell value a host write of `v` stores (10_state.md R49). -/
def cellOfCode (v : Word) : CellValue :=
  if v.getLsbD 1 then (if v.getLsbD 0 then .dark else .light) else .unset

/-- A cell as the host sees it: unset outside the active area (10_state.md R49, R86). -/
def State.visibleCell (s : State) (r c : Nat) : CellValue :=
  if r < s.dim ∧ c < s.dim then s.cell r c else .unset

/-- The word a target holds (R84; CMD and unmapped offsets read 0, R85). -/
def State.busWord (s : State) : Target → Word
  | .id => idWord
  | .ctrl => s.ctrlWord
  | .status => s.statusWord
  | .cmd => 0
  | .cfg => s.cfg.word
  | .errInfo => s.errInfo
  | .lastCmd => s.lastCmd
  | .res0 => s.res0
  | .res1 => s.res1
  | .res2 => s.res2
  | .res3 => s.res3
  | .res4 => s.res4
  | .aLen => s.aLen.setWidth 32
  | .bLen => s.bLen.setWidth 32
  | .rLen => BitVec.ofNat 32 s.rLen.val
  | .dataLen => s.dataLen.setWidth 32
  | .cwLen => s.cwLen.setWidth 32
  | .gridVer => s.gridVer.setWidth 32
  | .trialScore m => s.trialScore.toList.getD m 0
  | .element id k => (s.elem id k).setWidth 32
  | .cell r c => cellCode (s.visibleCell r c)
  | .unmapped => 0

/-- The targets a host read answers truly while BUSY = 1 (R90). -/
def readableWhileBusy : Target → Bool
  | .id => true
  | .ctrl => true
  | .status => true
  | .cfg => true
  | .lastCmd => true
  | .unmapped => true
  | _ => false

/-- BusRead (R82, R87): the state is unchanged but for the word the bus carries. While BUSY = 1 the word is
unspecified but for the targets R90 names: a fresh draw (log 7). -/
def State.busRead (s : State) (addr : BusAddr) : State :=
  if s.busy && !readableWhileBusy (targetOf addr) then
    { s with busData := Config.freeRead s.draws, draws := s.draws + 1 }
  else { s with busData := s.busWord (targetOf addr) }

/-- A reset of every register of 10_state.md R55; the memories, the draws and the host side stay. -/
def State.resetRegisters (s : State) : State :=
  { State.reset with
    polyA := s.polyA
    polyB := s.polyB
    polyR := s.polyR
    cwIn := s.cwIn
    cwOut := s.cwOut
    grid := s.grid
    draws := s.draws
    host := s.host
    busData := s.busData }

/-- The destinations of the running command, none for a word that is no command (70_reset_and_hazards.md R342). -/
def abortedDests (w : Word) : List Dest :=
  match decode w with
  | .ok i => destsOf i
  | .error _ => []

/-- The soft reset: a running command is aborted, its destinations become unspecified, and every register
takes its reset value (70_reset_and_hazards.md R342, 93 U4). -/
def State.softReset (s : State) : State :=
  match s.seq with
  | .idle => s.resetRegisters
  | .busy w _ => (s.spoil (abortedDests w)).resetRegisters

/-- The hardware reset (70_reset_and_hazards.md R340): every register at its reset value, every memory
unspecified by a fresh draw; the host side is outside the block and stays (log 13). -/
def State.hardReset (s : State) : State :=
  { State.reset with
    polyA := .unwritten s.draws
    polyB := .unwritten s.draws
    polyR := .unwritten s.draws
    cwIn := .unwritten s.draws
    cwOut := .unwritten s.draws
    grid := .unwritten s.draws
    draws := s.draws + 1
    host := s.host
    busData := s.busData }

/-- A host write to CTRL, idle or BUSY: soft reset, or IRQ_EN (10_state.md R32). -/
def State.writeCtrl (s : State) (v : Word) : State :=
  if v.getLsbD 0 then s.softReset else { s with irqEn := v.getLsbD 1 }

/-- A host write to a GRID cell: ignored outside the active area (10_state.md R49). -/
def State.writeCell (s : State) (r c : Nat) (v : Word) : State :=
  if r < s.dim ∧ c < s.dim then { s with grid := s.grid.write (gridKey r c) (cellOfCode v) } else s

/-- A host write to an element of a memory of bytes: bits 7:0, ignored for POLY_R (R83, R85). -/
def State.writeElement (s : State) (id : MemId) (k : Nat) (v : Word) : State :=
  match id with
  | .polyR => s
  | id => s.setElem id k (v.extractLsb' 0 8)

/-- A host write while BUSY = 0 (R84, R85, R87); CMD accepts a command (10_state.md R34). -/
def State.writeIdle (s : State) (v : Word) : Target → State
  | .id => s
  | .ctrl => s.writeCtrl v
  | .status => s.writeStatus v
  | .cmd => s.accept v
  | .cfg => { s with cfg := cfgOfWord v }
  | .errInfo => s
  | .lastCmd => s
  | .res0 => s
  | .res1 => s
  | .res2 => s
  | .res3 => s
  | .res4 => s
  | .aLen => { s with aLen := v.extractLsb' 0 9 }
  | .bLen => { s with bLen := v.extractLsb' 0 9 }
  | .rLen => s
  | .dataLen => { s with dataLen := v.extractLsb' 0 13 }
  | .cwLen => { s with cwLen := v.extractLsb' 0 13 }
  | .gridVer => s
  | .trialScore _ => s
  | .element id k => s.writeElement id k v
  | .cell r c => s.writeCell r c v
  | .unmapped => s

/-- The targets a host write can change, RW, WO or W1C in R84. -/
def hostWritable : Target → Bool
  | .ctrl => true
  | .status => true
  | .cmd => true
  | .cfg => true
  | .aLen => true
  | .bLen => true
  | .dataLen => true
  | .cwLen => true
  | .element id _ => id != .polyR
  | .cell _ _ => true
  | _ => false

/-- A host write while BUSY = 1: CTRL and STATUS take effect, one to any other writable target is dropped and sets WERR
(R90; a cell outside the active area as well, log 24). One to a read-only or unmapped target is ignored with no status
change, as when idle (R85; log 8). -/
def State.writeBusy (s : State) (v : Word) (t : Target) : State :=
  match t with
  | .ctrl => s.writeCtrl v
  | .status => s.writeStatus v
  | t => if hostWritable t then { s with werr := true } else s

/-- BusWrite (R82). -/
def State.busWrite (s : State) (addr : BusAddr) (v : Word) : State :=
  if s.busy then s.writeBusy v (targetOf addr) else s.writeIdle v (targetOf addr)

/-- The address of STATUS (R84). -/
def statusAddr : BusAddr := 0x00008

/-- The address of CMD (R84). -/
def cmdAddr : BusAddr := 0x0000C

/-- One host action takes effect. A WAIT that acts has seen BUSY = 0: its last STATUS read (30_encoding.md R121). -/
def State.serve (s : State) : HostAction → State
  | .read addr => s.busRead addr
  | .write addr v => s.busWrite addr v
  | .wait => s.busRead statusAddr
  | .hardReset => s.hardReset

end Sys2Proof.Machine
end

