-- ==== Sys2Proof/Machine/Grid.lean ====
section
/-! DEFINITION. The active area of GRID as rows of cells, and moving it between State's memory and that form
(spec/10_state.md R49, spec/00_scope.md R12 to R14). The grid commands are written over the rows. -/

namespace Sys2Proof.Machine

/-- The active area: row 0 first, column 0 first in each row (00_scope.md R13). -/
abbrev Board := List (List CellValue)

/-- A Boolean as a cell value: dark if true, light otherwise (R14). -/
def cellOfBool (b : Bool) : CellValue := if b then .dark else .light

/-- G[r][c] (R12). -/
def Board.at (g : Board) (r c : Nat) : CellValue := (g.getD r []).getD c .unset

/-- G[r][c] <- v (R12). -/
def Board.put (g : Board) (r c : Nat) (v : CellValue) : Board := g.modify r (fun row => row.set c v)

/-- A cell with the value a pattern gives it. -/
abbrev Paint := (Nat × Nat) × CellValue

/-- Unconditional writes in order. -/
def Board.paint (g : Board) (ps : List Paint) : Board := ps.foldl (fun g p => g.put p.1.1 p.1.2 p.2) g

/-- An area of `dim` rows and columns with every cell unset (43_placer.md R221). -/
def Board.empty (dim : Nat) : Board := List.replicate dim (List.replicate dim .unset)

/-- The number of unset cells. -/
def Board.unsetCount (g : Board) : Nat := (g.map (fun row => row.count .unset)).sum

/-- The listed cells of one row of GRID. -/
def gridRow (m : Memory CellValue) (r : Nat) : Memory CellValue :=
  { m with cells := m.cells.filter (fun c => c.1 / 256 == r) }

/-- The rows of a `dim` x `dim` area of GRID's memory. -/
def boardOf (m : Memory CellValue) (dim : Nat) : Board :=
  (List.range dim).map (fun r =>
    let row := gridRow m r
    (List.range dim).map (fun c => row.read Config.freeCell (gridKey r c)))

/-- The active area of the state. -/
def State.board (s : State) : Board := boardOf s.grid s.dim

/-- The set cells of one row with their keys, from column `c` on. -/
def rowCells (r : Nat) : Nat → List CellValue → List (Nat × CellValue)
  | _, [] => []
  | c, v :: t => if v = .unset then rowCells r (c + 1) t else (gridKey r c, v) :: rowCells r (c + 1) t

/-- The set cells of the rows from row `r` on. -/
def boardCells : Nat → Board → List (Nat × CellValue)
  | _, [] => []
  | r, row :: t => rowCells r 0 row ++ boardCells (r + 1) t

/-- GRID's memory with an area's cells; every other cell is outside the active area and invisible (R49). -/
def memoryOf (g : Board) : Memory CellValue := { fill := .all .unset, cells := boardCells 0 g }

/-- The active area replaced. -/
def State.setBoard (s : State) (g : Board) : State := { s with grid := memoryOf g }

/-- The GRID_VER check of R220: without a grid command `i` ends with RANGE_ERROR(0), otherwise it changes the area. -/
def State.withGrid (s : State) (i : Instr) (f : Board → Board) : Host.Outcome State Fault Refusal :=
  if s.gridVer = 0 then s.failUnspecified i (.rangeVersion 0) else (s.setBoard (f s.board)).complete

end Sys2Proof.Machine
end

