-- ==== Sys2Proof/Machine/Placer.lean ====
section
/-! DEFINITION. The structural-pattern placer (spec/43_placer.md): GRID_CLEAR, PLACE_FINDER, PLACE_ALIGN,
PLACE_TIMING, PLACE_FORMAT, PLACE_VERSION. Each pattern is a change of the rows of the active area; BUILD and
AUTOBUILD use the same ones. -/

namespace Sys2Proof.Machine

/-! ### Finder patterns -/

/-- The dark cells of the finder at offset (r, c) from its top-left corner (R222). -/
def finderDark (r c : Int) : Bool :=
  (decide (0 ≤ r) && decide (r ≤ 6) && (decide (c = 0) || decide (c = 6)))
    || (decide (0 ≤ c) && decide (c ≤ 6) && (decide (r = 0) || decide (r = 6)))
    || (decide (2 ≤ r) && decide (r ≤ 4) && decide (2 ≤ c) && decide (c ≤ 4))

/-- The offsets -1..7 of the 9 x 9 window (R222). -/
def finderOffsets : List Int := [-1, 0, 1, 2, 3, 4, 5, 6, 7]

/-- The cells of the finder with top-left corner (R, C) that lie inside the grid (R222). -/
def finderPaints (dim : Nat) (R C : Int) : List Paint :=
  finderOffsets.flatMap (fun r =>
    finderOffsets.filterMap (fun c =>
      if 0 ≤ R + r ∧ R + r < dim ∧ 0 ≤ C + c ∧ C + c < dim then
        some (((R + r).toNat, (C + c).toNat), cellOfBool (finderDark r c))
      else none))

/-- The three finders: top-left, bottom-left, top-right (R223). -/
def placeFinders (dim : Nat) (g : Board) : Board :=
  g.paint (finderPaints dim 0 0 ++ finderPaints dim ((dim : Int) - 7) 0 ++ finderPaints dim 0 ((dim : Int) - 7))

/-! ### Alignment patterns -/

/-- Offsets 0..4 stand for -2..2: the border, and the centre, are dark (R225). -/
def alignDark (i j : Nat) : Bool :=
  decide (i = 0) || decide (i = 4) || decide (j = 0) || decide (j = 4) || (decide (i = 2) && decide (j = 2))

/-- The 25 cells of the alignment pattern centred at (R, C) (R225). -/
def alignPaints (R C : Nat) : List Paint :=
  (List.range 5).flatMap (fun i =>
    (List.range 5).map (fun j => ((R + i - 2, C + j - 2), cellOfBool (alignDark i j))))

/-- One combination: placed when its centre is unset as the grid stands (R227, R228). -/
def placeAlignment (g : Board) (centre : Nat × Nat) : Board :=
  if g.at centre.1 centre.2 = .unset then g.paint (alignPaints centre.1 centre.2) else g

/-- The combinations in loop order, the row coordinate outer (R228). -/
def alignCentres (v : Nat) : List (Nat × Nat) :=
  (alignPositions v).flatMap (fun r => (alignPositions v).map (fun c => (r, c)))

/-- Every combination considered in order (R228). -/
def placeAlignments (v : Nat) (g : Board) : Board := (alignCentres v).foldl placeAlignment g

/-! ### Timing patterns -/

/-- An unset cell takes the timing value of coordinate k: dark when k is even (R230, R231). -/
def placeTimingCell (g : Board) (r c k : Nat) : Board :=
  if g.at r c = .unset then g.put r c (cellOfBool (k % 2 == 0)) else g

/-- Column 6, then row 6, over the whole range (R231). -/
def placeTimings (dim : Nat) (g : Board) : Board :=
  let g := (List.range dim).foldl (fun g r => placeTimingCell g r 6 r) g
  (List.range dim).foldl (fun g c => placeTimingCell g 6 c c) g

/-! ### Format information -/

/-- digit(x): the number of bits of x (R232). -/
def digit (x : Nat) : Nat := if x = 0 then 0 else Nat.log2 x + 1

/-- The loop of bchrem; every step lowers digit(d), so `fuel` = digit(d) steps are enough (R232). -/
def bchLoop : Nat → Nat → Nat → Nat
  | 0, d, _ => d
  | fuel + 1, d, g => if digit d < digit g then d else bchLoop fuel (d ^^^ (g <<< (digit d - digit g))) g

/-- bchrem(d, G): the remainder of the carry-less division (R232). -/
def bchrem (d g : Nat) : Nat := bchLoop (digit d) d g

/-- The format word of level code e and mask m (R234). -/
def formatWord (e m : Nat) : Nat :=
  let data := ((e <<< 3) ||| m) <<< 10
  (data ||| bchrem data g15) ^^^ g15Mask

/-- The vertical strip cell of bit i, in column 8 (R235). -/
def formatVertical (dim i : Nat) : Nat × Nat :=
  if i ≤ 5 then (i, 8) else if i = 6 then (7, 8) else if i = 7 then (8, 8) else (dim - 15 + i, 8)

/-- The horizontal strip cell of bit i, in row 8 (R235). -/
def formatHorizontal (dim i : Nat) : Nat × Nat :=
  if i ≤ 7 then (8, dim - 1 - i) else if i = 8 then (8, 7) else (8, 14 - i)

/-- The 31 format cells: both strips and the dark module, all light in test mode (R235, R236). -/
def formatPaints (dim e m : Nat) (test : Bool) : List Paint :=
  let bit := fun i => cellOfBool (!test && (formatWord e m).testBit i)
  (List.range 15).map (fun i => (formatVertical dim i, bit i))
    ++ (List.range 15).map (fun i => (formatHorizontal dim i, bit i))
    ++ [((dim - 8, 8), cellOfBool (!test))]

/-- The format information written (R236). -/
def placeFormats (dim e m : Nat) (test : Bool) (g : Board) : Board := g.paint (formatPaints dim e m test)

/-! ### Version information -/

/-- The version word of version v (R239). -/
def versionWord (v : Nat) : Nat := (v <<< 12) ||| bchrem (v <<< 12) g18

/-- The 36 version cells: the top-right block, then the bottom-left block, all light in test mode (R240). -/
def versionPaints (v : Nat) (test : Bool) : List Paint :=
  let dim := dimOf v
  let bit := fun i => cellOfBool (!test && (versionWord v).testBit i)
  (List.range 18).map (fun i => ((i / 3, i % 3 + dim - 11), bit i))
    ++ (List.range 18).map (fun i => ((i % 3 + dim - 11, i / 3), bit i))

/-- The version information written, from version 7 on (R240). -/
def placeVersions (v : Nat) (test : Bool) (g : Board) : Board := if v < 7 then g else g.paint (versionPaints v test)

/-! ### The commands -/

/-- CFG.VERSION when it is a legal version (10_state.md R35, 43_placer.md R221). -/
def State.cfgVersion (s : State) : Except CmdError (BitVec 6) :=
  if 1 ≤ s.cfg.version.toNat ∧ s.cfg.version.toNat ≤ 40 then .ok s.cfg.version
  else .error (.rangeVersion s.cfg.version.toNat)

/-- GRID_CLEAR: GRID_VER <- CFG.VERSION, every active cell unset (R221); after an error both are unspecified (log 4). -/
def execGridClear (s : State) : Host.Outcome State Fault Refusal :=
  match s.cfgVersion with
  | .error e => s.failUnspecified .gridClear e
  | .ok v => { s with gridVer := v, grid := memoryOf (Board.empty (dimOf v.toNat)) }.complete

/-- PLACE_FINDER (R223). -/
def execPlaceFinder (s : State) : Host.Outcome State Fault Refusal :=
  s.withGrid .placeFinder (placeFinders s.dim)

/-- PLACE_ALIGN (R228). -/
def execPlaceAlign (s : State) : Host.Outcome State Fault Refusal :=
  s.withGrid .placeAlign (placeAlignments s.version)

/-- PLACE_TIMING (R231). -/
def execPlaceTiming (s : State) : Host.Outcome State Fault Refusal :=
  s.withGrid .placeTiming (placeTimings s.dim)

/-- PLACE_FORMAT (R236). -/
def execPlaceFormat (s : State) : Host.Outcome State Fault Refusal :=
  s.withGrid .placeFormat (placeFormats s.dim s.cfg.ecl.toNat s.cfg.mask.toNat s.cfg.test)

/-- PLACE_VERSION (R240). -/
def execPlaceVersion (s : State) : Host.Outcome State Fault Refusal :=
  s.withGrid .placeVersion (placeVersions s.version s.cfg.test)

end Sys2Proof.Machine
end

