-- ==== Sys2Proof/Machine/Mapper.lean ====
section
/-! DEFINITION. The codeword-to-matrix mapper, the penalty and the build passes (spec/44_mapper.md): MAP_DATA,
SCORE, BUILD, AUTOBUILD. -/

namespace Sys2Proof.Machine

/-! ### Masks and mapping -/

/-- The mask predicates of cell (i, j), i the row (R260). -/
def maskBit (m i j : Nat) : Bool :=
  match m with
  | 0 => (i + j) % 2 == 0
  | 1 => i % 2 == 0
  | 2 => j % 3 == 0
  | 3 => (i + j) % 3 == 0
  | 4 => (i / 2 + j / 3) % 2 == 0
  | 5 => (i * j) % 2 + (i * j) % 3 == 0
  | 6 => ((i * j) % 2 + (i * j) % 3) % 2 == 0
  | _ => ((i * j) % 3 + (i + j) % 2) % 2 == 0

/-- The right columns of the pairs from `col` leftward, column 6 skipped (R262); `fuel` bounds the loop. -/
def pairColumns : Nat → Nat → List Nat
  | 0, _ => []
  | fuel + 1, col =>
    if col = 0 then []
    else
      let c := if col = 6 then 5 else col
      c :: pairColumns fuel (c - 2)

/-- The rows of a pair: upward from the bottom edge, or downward from the top edge (R262). -/
def pairRows (dim : Nat) (up : Bool) : List Nat := if up then (List.range dim).reverse else List.range dim

/-- The cells of the pairs in scan order; the direction reverses from pair to pair, the right cell is first. -/
def pairCells (dim : Nat) : Bool → List Nat → List (Nat × Nat)
  | _, [] => []
  | up, col :: t => (pairRows dim up).flatMap (fun r => [(r, col), (r, col - 1)]) ++ pairCells dim (!up) t

/-- The scan of R262, from the bottom-right corner moving up. -/
def scanOrder (dim : Nat) : List (Nat × Nat) := pairCells dim true (pairColumns dim (dim - 1))

/-- The visited cells: the unset ones, in scan order (R262). -/
def visitedCells (dim : Nat) (g : Board) : List (Nat × Nat) :=
  (scanOrder dim).filter (fun p => decide (g.at p.1 p.2 = .unset))

/-- The bits of a codeword, most significant first (R263, 20_memory.md R89). -/
def codewordBits (b : Byte) : List Bool := (List.range 8).map (fun i => b.getLsbD (7 - i))

/-- The cell values of the visited cells: the codeword bits in order, 0 after the last, each XOR the mask (R263). -/
def mappedPaints (mask : Nat) : List (Nat × Nat) → List Bool → List Paint
  | [], _ => []
  | p :: ps, [] => (p, cellOfBool (maskBit mask p.1 p.2)) :: mappedPaints mask ps []
  | p :: ps, b :: bs => (p, cellOfBool (b ^^ maskBit mask p.1 p.2)) :: mappedPaints mask ps bs

/-- The codewords mapped into the unset cells (R265). -/
def mapCodewords (dim mask : Nat) (cws : List Byte) (g : Board) : Board :=
  g.paint (mappedPaints mask (visitedCells dim g) (cws.flatMap codewordBits))

/-- MAP_DATA: CAPACITY_OVERFLOW(CW_LEN) when 8 * CW_LEN > U, otherwise the mapping (R264, R265); after an error GRID is
unspecified (60_exceptions.md R307, log 4). -/
def execMapData (s : State) : Host.Outcome State Fault Refusal :=
  if s.gridVer = 0 then s.failUnspecified .mapData (.rangeVersion 0)
  else if 8 * s.cwLen.toNat > s.board.unsetCount then s.failUnspecified .mapData (.capacityOverflow s.cwLen.toNat)
  else (s.setBoard (mapCodewords s.dim s.cfg.mask.toNat s.codewords s.board)).complete

/-! ### Penalty -/

/-- The colours of an area: dark or not, by row and column. -/
abbrev Colours := Nat → Nat → Bool

/-- The offsets -1, 0, 1 as 0, 1, 2, both not 1: the eight neighbours (R271). -/
def neighbourOffsets : List (Nat × Nat) := [(0, 0), (0, 1), (0, 2), (1, 0), (1, 2), (2, 0), (2, 1), (2, 2)]

/-- The number of neighbours of (r, c) inside the grid with its colour (R271). -/
def sameNeighbours (dim : Nat) (dark : Colours) (r c : Nat) : Nat :=
  neighbourOffsets.countP (fun d =>
    decide (1 ≤ r + d.1 ∧ r + d.1 ≤ dim ∧ 1 ≤ c + d.2 ∧ c + d.2 ≤ dim)
      && (dark (r + d.1 - 1) (c + d.2 - 1) == dark r c))

/-- The sum of f over rows 0..n-1 and columns 0..m-1. -/
def sumOver (n m : Nat) (f : Nat → Nat → Nat) : Nat :=
  ((List.range n).map (fun r => ((List.range m).map (f r)).sum)).sum

/-- P1, the run penalty (R271). -/
def penalty1 (dim : Nat) (dark : Colours) : Nat :=
  sumOver dim dim (fun r c =>
    let s := sameNeighbours dim dark r c
    if s > 5 then 3 + (s - 5) else 0)

/-- P2, the block penalty (R272). -/
def penalty2 (dim : Nat) (dark : Colours) : Nat :=
  sumOver (dim - 1) (dim - 1) (fun r c =>
    if dark r c == dark r (c + 1) && dark r c == dark (r + 1) c && dark r c == dark (r + 1) (c + 1) then 3 else 0)

/-- The seven colours of the pattern of P3 (R273). -/
def pattern3 : List Bool := [true, false, true, true, true, false, true]

/-- P3, the pattern penalty: horizontal windows, then vertical ones (R273). -/
def penalty3 (dim : Nat) (dark : Colours) : Nat :=
  sumOver dim (dim - 6) (fun r c => if (List.range 7).map (fun k => dark r (c + k)) = pattern3 then 40 else 0)
    + sumOver (dim - 6) dim (fun r c => if (List.range 7).map (fun k => dark (r + k) c) = pattern3 then 40 else 0)

/-- D, the number of dark cells (R274). -/
def darkCount (dim : Nat) (dark : Colours) : Nat := sumOver dim dim (fun r c => if dark r c then 1 else 0)

/-- P4, the balance penalty (R274). -/
def penalty4 (dim : Nat) (dark : Colours) : Nat :=
  let t := dim * dim
  (100 * (darkCount dim dark : Int) - 50 * (t : Int)).natAbs / (5 * t) * 10

/-- The four components and their sum (R270). -/
structure Penalty where
  p1 : Nat
  p2 : Nat
  p3 : Nat
  p4 : Nat
deriving DecidableEq, Repr

/-- P = P1 + P2 + P3 + P4 (R270). -/
def Penalty.total (p : Penalty) : Nat := p.p1 + p.p2 + p.p3 + p.p4

/-- The area as rows of colours, dark = 1 (R270). -/
def Board.darkRows (g : Board) : Array (Array Bool) :=
  (g.map (fun row => (row.map (fun v => decide (v = .dark))).toArray)).toArray

/-- The colour of cell (r, c). -/
def colourAt (rows : Array (Array Bool)) (r c : Nat) : Bool := (rows.getD r #[]).getD c false

/-- The penalty of a complete area (R270). -/
def penaltyOf (dim : Nat) (g : Board) : Penalty :=
  let dark := colourAt g.darkRows
  { p1 := penalty1 dim dark, p2 := penalty2 dim dark, p3 := penalty3 dim dark, p4 := penalty4 dim dark }

/-- SCORE: RES0..RES4 <- P, P1, P2, P3, P4; INCOMPLETE_GRID with the number of unset cells (R275). -/
def execScore (s : State) : Host.Outcome State Fault Refusal :=
  if s.gridVer = 0 then s.failUnspecified .score (.rangeVersion 0)
  else if s.board.unsetCount > 0 then s.failUnspecified .score (.incompleteGrid s.board.unsetCount)
  else
    let p := penaltyOf s.dim s.board
    { s with
      res0 := BitVec.ofNat 32 p.total
      res1 := BitVec.ofNat 32 p.p1
      res2 := BitVec.ofNat 32 p.p2
      res3 := BitVec.ofNat 32 p.p3
      res4 := BitVec.ofNat 32 p.p4 }.complete

/-! ### Build passes -/

/-- The structural patterns of version v in the source's order on a fresh grid (43_placer.md R243, R281). -/
def structuralBoard (v e m : Nat) (test : Bool) : Board :=
  let dim := dimOf v
  placeVersions v test (placeFormats dim e m test (placeTimings dim (placeAlignments v (placeFinders dim (Board.empty dim)))))

/-- U(v), the unset cells left by the structural patterns, which depends on v alone (43_placer.md R243). -/
def structuralUnset (v : Nat) : Nat := (structuralBoard v 0 0 true).unsetCount

/-- build(v, e, m, t) (R281). -/
def buildBoard (v e m : Nat) (test : Bool) (cws : List Byte) : Board :=
  mapCodewords (dimOf v) m cws (structuralBoard v e m test)

/-- The checks of BUILD and AUTOBUILD: the version, then the capacity (R280, R282, 60_exceptions.md R304). -/
def State.buildCheck (s : State) : Except CmdError (BitVec 6) :=
  match s.cfgVersion with
  | .error e => .error e
  | .ok v =>
    if 8 * s.cwLen.toNat > structuralUnset v.toNat then .error (.capacityOverflow s.cwLen.toNat) else .ok v

/-- BUILD: one build pass with CFG's level, mask and TEST (R280). -/
def execBuild (s : State) : Host.Outcome State Fault Refusal :=
  match s.buildCheck with
  | .error e => s.failUnspecified .build e
  | .ok v =>
    { s with
      gridVer := v
      grid := memoryOf (buildBoard v.toNat s.cfg.ecl.toNat s.cfg.mask.toNat s.cfg.test s.codewords) }.complete

/-- The score of the test build with mask m (R282). -/
def trialPenalty (v e : Nat) (cws : List Byte) (m : Nat) : Nat :=
  (penaltyOf (dimOf v) (buildBoard v e m true cws)).total

/-- The loop over the scores from mask m on: a later mask wins only when its score is strictly lower (R282). -/
def bestFrom : Nat → Nat × Nat → List Nat → Nat × Nat
  | _, best, [] => best
  | m, best, s :: t => bestFrom (m + 1) (if best.2 > s then (m, s) else best) t

/-- The chosen mask and its score; mask 0 is the first best (R282). -/
def chooseMask (scores : List Nat) : Nat × Nat := bestFrom 1 (0, scores.headD 0) scores.tail

/-- AUTOBUILD: eight test builds, the choice, the final build; RES0 the mask, RES1 its test score (R282). -/
def execAutobuild (s : State) : Host.Outcome State Fault Refusal :=
  match s.buildCheck with
  | .error e => s.failUnspecified .autobuild e
  | .ok v =>
    let cws := s.codewords
    let scores := (List.range 8).map (trialPenalty v.toNat s.cfg.ecl.toNat cws)
    let best := chooseMask scores
    { s with
      trialScore := Vector.ofFn (fun m => BitVec.ofNat 32 (scores.getD m.val 0))
      gridVer := v
      grid := memoryOf (buildBoard v.toNat s.cfg.ecl.toNat best.1 false cws)
      res0 := BitVec.ofNat 32 best.1
      res1 := BitVec.ofNat 32 best.2 }.complete

end Sys2Proof.Machine
end

