-- ==== Sys2Proof/Machine/Gf.lean ====
section
/-! DEFINITION. The GF(2^8) arithmetic unit (spec/40_gf.md): the field functions and NOP, GF_EXP, GF_LOG,
GF_MUL. -/

namespace Sys2Proof.Machine

/-- gexp(n) = EXP[n mod 255] for any integer n, the least non-negative residue (R142, 00_scope.md R11). -/
def gexp (n : Int) : Byte := expTable (n % 255).toNat

/-- glog(a) = LOG[a]; it has no value at 0, where a command raises DOMAIN_ERROR (R145). -/
def glog (a : Byte) : Option Nat := logTable a.toNat

/-- gmul(a, b) = gexp(glog(a) + glog(b)), without a value when a or b is 0 (R147). -/
def gmul (a b : Byte) : Option Byte :=
  match glog a, glog b with
  | some l, some m => some (gexp (l + m))
  | _, _ => none

/-- The exponent glog(a) where a rule has made sure that a is not 0; what it answers at 0 is read by no
command (log 23). -/
def logNonzero (a : Byte) : Int := ((glog a).getD 0 : Nat)

/-- A result register's value: zext_32 of a byte. -/
def wordOfByte (b : Byte) : Word := b.setWidth 32

/-- NOP: nothing (R140). -/
def execNop (s : State) : Host.Outcome State Fault Refusal := s.complete

/-- GF_EXP: RES0 <- gexp(n) (R143). -/
def execGfExp (n : Int) (s : State) : Host.Outcome State Fault Refusal :=
  { s with res0 := wordOfByte (gexp n) }.complete

/-- GF_LOG: RES0 <- glog(a), DOMAIN_ERROR(0) when a = 0 (R146). -/
def execGfLog (a : Byte) (s : State) : Host.Outcome State Fault Refusal :=
  match glog a with
  | none => s.failUnspecified (.gfLog a) (.domain 0 0)
  | some l => { s with res0 := BitVec.ofNat 32 l }.complete

/-- GF_MUL: RES0 <- gexp(glog(a) + glog(b)), DOMAIN_ERROR for a = 0, then for b = 0 (R148). -/
def execGfMul (a b : Byte) (s : State) : Host.Outcome State Fault Refusal :=
  match glog a with
  | none => s.failUnspecified (.gfMul a b) (.domain 0 0)
  | some l =>
    match glog b with
    | none => s.failUnspecified (.gfMul a b) (.domain 1 0)
    | some m => { s with res0 := wordOfByte (gexp (l + m)) }.complete

end Sys2Proof.Machine
end

