-- ==== Sys2Proof/Machine/Poly.lean ====
section
/-! DEFINITION. The polynomial engine over GF(2^8) (spec/41_poly.md). A polynomial is the list of its
coefficients, that of the highest power first (00_scope.md R16). -/

namespace Sys2Proof.Machine

/-- Field addition of two coefficient lists aligned at their first element; the longer one's tail stays. -/
def xorFront : List Byte → List Byte → List Byte
  | [], q => q
  | p, [] => p
  | x :: p, y :: q => (x ^^^ y) :: xorFront p q

/-- The coefficient term of a product whose factors a rule has made sure are not 0 (R147, log 23). -/
def gterm (a b : Byte) : Byte := (gmul a b).getD 0

/-- r[i+j] <- r[i+j] ^ gexp(glog(a[i]) + glog(b[j])) over all i, j: row i is the scaled b, shifted by i (R163). -/
def polyProduct : List Byte → List Byte → List Byte
  | [], _ => []
  | x :: a, b => xorFront (b.map (gterm x)) (0 :: polyProduct a b)

/-- The least index of a zero coefficient. -/
def firstZero (p : List Byte) : Option Nat := p.findIdx? (· == 0)

/-- POLY_MUL's checks in the order of R163 and R304, and its product. -/
def polyMulResult (s : State) : Except CmdError (List Byte) :=
  match s.lengthCheck with
  | .error e => .error e
  | .ok _ =>
    let a := s.operandA
    let b := s.operandB
    if a.length = 0 then .error (.domain 0 0xFFFF)
    else if b.length = 0 then .error (.domain 1 0xFFFF)
    else if a.length + b.length - 1 > Config.pMax then .error (.polyOverflow (a.length + b.length - 1))
    else
      match firstZero a with
      | some i => .error (.domain 0 i)
      | none =>
        match firstZero b with
        | some j => .error (.domain 1 j)
        | none => .ok (canon (polyProduct a b))

/-- One step of the long division: the copy of b scaled to a's leading term is subtracted and the leading
zeros go (R165). -/
def pmodStep (a b : List Byte) : List Byte :=
  let ratio := logNonzero (a.headD 0) - logNonzero (b.headD 0)
  canon (xorFront a (b.map (fun x => gexp (logNonzero x + ratio))))

/-- The loop of R165; every step shortens a, so `fuel` = len(a) steps are enough. -/
def pmodLoop : Nat → List Byte → List Byte → List Byte
  | 0, a, _ => a
  | fuel + 1, a, b => if a.length < b.length then a else pmodLoop fuel (pmodStep a b) b

/-- pmod(a, b), the remainder (R165). -/
def pmod (a b : List Byte) : List Byte := pmodLoop a.length a b

/-- POLY_MOD's checks in the order of R166 and R304, and its remainder. -/
def polyModResult (s : State) : Except CmdError (List Byte) :=
  match s.lengthCheck with
  | .error e => .error e
  | .ok _ =>
    let a := s.operandA
    let b := s.operandB
    if b.length = 0 then .error (.domain 1 0xFFFF)
    else if a.length < b.length then .ok (pmod a b)
    else
      match firstZero b with
      | some j => .error (.domain 1 j)
      | none => .ok (pmod a b)

/-- genpoly(k): the product of the factors (x - 2^i) for i in 0..k-1, from the constant 1 (R169). -/
def genpoly (k : Nat) : List Byte :=
  (List.range k).foldl (fun g (i : Nat) => polyProduct g [0x01, gexp i]) [0x01]

/-- POLY_MUL: R <- A times B (R163). -/
def execPolyMul (s : State) : Host.Outcome State Fault Refusal :=
  match polyMulResult s with
  | .error e => s.failUnspecified .polyMul e
  | .ok p => (s.setR p).complete

/-- POLY_MOD: R <- A mod B (R166). -/
def execPolyMod (s : State) : Host.Outcome State Fault Refusal :=
  match polyModResult s with
  | .error e => s.failUnspecified .polyMod e
  | .ok p => (s.setR p).complete

/-- POLY_GEN: R <- genpoly(k) (R170). -/
def execPolyGen (k : Byte) (s : State) : Host.Outcome State Fault Refusal :=
  (s.setR (genpoly k.toNat)).complete

/-- POLY_MOVE_RA: A_LEN <- R_LEN and the R_LEN coefficients; the elements above stay (R173). -/
def execPolyMoveRA (s : State) : Host.Outcome State Fault Refusal :=
  { s with aLen := BitVec.ofNat 9 s.rLen.val, polyA := s.polyA.writeFrom 0 s.coeffsR }.complete

/-- POLY_MOVE_RB: B_LEN <- R_LEN and the R_LEN coefficients; the elements above stay (R174). -/
def execPolyMoveRB (s : State) : Host.Outcome State Fault Refusal :=
  { s with bLen := BitVec.ofNat 9 s.rLen.val, polyB := s.polyB.writeFrom 0 s.coeffsR }.complete

end Sys2Proof.Machine
end

