-- ==== Sys2Proof/Machine/Rs.lean ====
section
/-! DEFINITION. The Reed-Solomon encoder (spec/42_rs.md): block table, parity, interleaving, RS_ENCODE. -/

namespace Sys2Proof.Machine

/-- An RS block descriptor (R190). -/
structure RsBlock where
  total : Nat
  data : Nat
deriving DecidableEq, Repr

/-- ecCount (R190). -/
def RsBlock.ec (b : RsBlock) : Nat := b.total - b.data

/-- The groups of one version at one level; the table is keyed by the letter (R192). -/
def VersionBlocks.atLevel (v : VersionBlocks) : Level → List BlockGroup
  | .L => v.L
  | .M => v.M
  | .Q => v.Q
  | .H => v.H

/-- The expansion: every group's descriptor repeated `count` times, groups in order (R190). -/
def expandGroups (gs : List BlockGroup) : List RsBlock :=
  gs.flatMap (fun g => List.replicate g.count ⟨g.total, g.data⟩)

/-- rs_blocks(v, level): none where R193 raises RANGE_ERROR(v), outside 1..40 or for an entry the table lacks. -/
def rsBlocks (v : Nat) (l : Level) : Option (List RsBlock) :=
  if v = 0 then none
  else
    match rsBlockTable[v - 1]? with
    | none => none
    | some row => some (expandGroups (row.atLevel l))

/-- The bounds check of every block in order: the first cumulative offset past DATA_LEN, if any (R200). -/
def boundsViolation (n : Nat) : Nat → List RsBlock → Option Nat
  | _, [] => none
  | off, b :: bs => if off + b.data > n then some (off + b.data) else boundsViolation n (off + b.data) bs

/-- The data capacity: the sum of dataCount (R191). -/
def capacityOf (bs : List RsBlock) : Nat := (bs.map RsBlock.data).sum

/-- The data of each block: consecutive pieces of the input (R200). -/
def splitBlocks : List RsBlock → List Byte → List (List Byte)
  | [], _ => []
  | b :: bs, d => d.take b.data :: splitBlocks bs (d.drop b.data)

/-- The dividend of a block: its data times x^ec (R201). -/
def rsDividend (d : List Byte) (ec : Nat) : List Byte := canon (d ++ List.replicate ec 0)

/-- The parity of a block: the remainder by genpoly(ec), right-aligned in ec bytes (R202, R203). -/
def rsParity (d : List Byte) (ec : Nat) : List Byte := (pmod (rsDividend d ec) (genpoly ec)).leftpad ec 0

/-- One column of the blocks: element i of every block that has one, blocks in order (R205). -/
def columnOf (blocks : List (List Byte)) (i : Nat) : List Byte := blocks.filterMap (fun b => b[i]?)

/-- The columns one after another, as many as the longest block has elements (R205). -/
def columnMajor (blocks : List (List Byte)) : List Byte :=
  (List.range ((blocks.map List.length).foldl max 0)).flatMap (columnOf blocks)

/-- interleave(dc, pc): the data column-major, then the parity column-major (R205). -/
def interleave (dc pc : List (List Byte)) : List Byte := columnMajor dc ++ columnMajor pc

/-- The codeword sequence of a block list and its data (R200). -/
def rsCodewords (bs : List RsBlock) (d : List Byte) : List Byte :=
  let dc := splitBlocks bs d
  interleave dc (List.zipWith (fun b x => rsParity x b.ec) bs dc)

/-- RS_ENCODE's checks in the order of R200 and R304, and its block list. -/
def rsEncodeCheck (s : State) : Except CmdError (List RsBlock) :=
  match rsBlocks s.cfg.version.toNat (levelOfCode s.cfg.ecl) with
  | none => .error (.rangeVersion s.cfg.version.toNat)
  | some bs =>
    match boundsViolation s.dataLen.toNat 0 bs with
    | some off => .error (.bufferBounds off)
    | none => .ok bs

/-- RS_ENCODE: CW_OUT <- the interleaved codewords, CW_LEN <- their number, RES0 <- the data capacity (R200). -/
def execRsEncode (s : State) : Host.Outcome State Fault Refusal :=
  match rsEncodeCheck s with
  | .error e => s.failUnspecified .rsEncode e
  | .ok bs =>
    let out := rsCodewords bs (s.elems .cwIn (capacityOf bs))
    { s with
      cwOut := s.cwOut.writeFrom 0 out
      cwLen := BitVec.ofNat 13 out.length
      res0 := BitVec.ofNat 32 (capacityOf bs) }.complete

end Sys2Proof.Machine
end

