-- ==== Sys2Proof/Machine/Dispatch.lean ====
section
/-! DEFINITION. The dispatch of a command to its meaning, one arm for each constructor (spec/30_encoding.md R114). -/

namespace Sys2Proof.Machine

/-- The execution of a command and its completion (60_exceptions.md R308). -/
def exec (i : Instr) (s : State) : Host.Outcome State Fault Refusal :=
  match i with
  | .nop => Sys2Proof.Machine.execNop s
  | .gfExp n => Sys2Proof.Machine.execGfExp n s
  | .gfLog a => Sys2Proof.Machine.execGfLog a s
  | .gfMul a b => Sys2Proof.Machine.execGfMul a b s
  | .polyMul => Sys2Proof.Machine.execPolyMul s
  | .polyMod => Sys2Proof.Machine.execPolyMod s
  | .polyGen k => Sys2Proof.Machine.execPolyGen k s
  | .polyMoveRA => Sys2Proof.Machine.execPolyMoveRA s
  | .polyMoveRB => Sys2Proof.Machine.execPolyMoveRB s
  | .rsEncode => Sys2Proof.Machine.execRsEncode s
  | .gridClear => Sys2Proof.Machine.execGridClear s
  | .placeFinder => Sys2Proof.Machine.execPlaceFinder s
  | .placeAlign => Sys2Proof.Machine.execPlaceAlign s
  | .placeTiming => Sys2Proof.Machine.execPlaceTiming s
  | .placeFormat => Sys2Proof.Machine.execPlaceFormat s
  | .placeVersion => Sys2Proof.Machine.execPlaceVersion s
  | .mapData => Sys2Proof.Machine.execMapData s
  | .score => Sys2Proof.Machine.execScore s
  | .build => Sys2Proof.Machine.execBuild s
  | .autobuild => Sys2Proof.Machine.execAutobuild s

end Sys2Proof.Machine
end

