-- ==== Sys2Proof/Machine/Sequencer.lean ====
section
/-! DEFINITION. The parts a step is made of: running the pending command word, and letting the next host
action land (spec/00_scope.md R4, R8; spec/60_exceptions.md R306, R308, R321). -/

namespace Sys2Proof.Machine

/-- The pending word is decoded and its command executed; a word that is no command ends with ILLEGAL_CMD
(30_encoding.md R110, R115, R116). -/
def State.runWord (s : State) (w : Word) : Host.Outcome State Fault Refusal :=
  match decode w with
  | .ok i => exec i s
  | .error _ => s.raise (.illegalCmd w)

/-- The pending command completes in this step: no host action may land before it any more, or none is to
come, or the host waits for it (log 2, 10). -/
def completesNow (landing : Nat) (host : List HostAction) : Bool :=
  match host with
  | [] => true
  | .wait :: _ => true
  | _ => landing == 0

/-- One host action fewer may land before the completion. -/
def Sequencer.afterLanding : Sequencer → Sequencer
  | .idle => .idle
  | .busy w n => .busy w (n - 1)

/-- The first host action takes effect; without one the state stays. -/
def State.land (s : State) : State :=
  match s.host with
  | [] => s
  | a :: rest => { s with seq := s.seq.afterLanding, host := rest }.serve a

end Sys2Proof.Machine
end

