-- ==== Sys2Proof/Machine/Step.lean ====
section
/-! DEFINITION. One step of QRCORE (spec/00_scope.md R4): the completion of the pending command, or one host
action, or nothing when the block is idle and the host does nothing. -/

namespace Sys2Proof.Machine

/-- One step. Which of a pending completion and a host action comes first is decided by the free LATENCY
(00_scope.md R8); a host action that coincides with the completion comes first (60_exceptions.md R321). -/
def step (s : State) : Host.Outcome State Fault Refusal :=
  match s.seq with
  | .idle => .next s.land
  | .busy w n => if completesNow n s.host then s.runWord w else .next s.land

/-- The state right after the host's CMD write of the word `w` was accepted, with no host action to land
before its completion: the very next step runs it (log 17). A row of the table is one 32-bit word (R118). -/
def State.withFetchWord (s : State) (nbits w : Nat) : State :=
  let word : Word := BitVec.ofNat 32 (w % 2 ^ nbits)
  { s.accept word with seq := .busy word 0 }

end Sys2Proof.Machine
end

