-- ==== Sys2Proof/Safety.lean ====
section
/-! DEFINITION. What the statements speak of: the invariant of the machine, a run that never stops, what a
command leaves unchanged, how it ends, and reference notions of field and polynomial arithmetic that do not
go through the tables. -/

namespace Sys2Proof

open Machine

/-! ### The invariant -/

/-- A memory of bytes is canonical and lists only elements it has (spec/10_state.md R45 to R48). -/
abbrev Machine.Memory.sound (size : Nat) (m : Memory Byte) : Prop := m.wf ∧ ∀ c ∈ m.cells, c.1 < size

/-- GRID is canonical and lists only cells of the 177 x 177 grid (R49). -/
abbrev Machine.Memory.gridSound (m : Memory CellValue) : Prop :=
  m.wf ∧ ∀ c ∈ m.cells, c.1 / 256 < Config.dimMax ∧ c.1 % 256 < Config.dimMax

/-- Every memory is sound. -/
abbrev Machine.State.memoriesSound (s : State) : Prop :=
  s.polyA.sound Config.pMax ∧ s.polyB.sound Config.pMax ∧ s.polyR.sound Config.pMax ∧ s.cwIn.sound Config.cwMax
    ∧ s.cwOut.sound Config.cwMax ∧ s.grid.gridSound

/-- R is canonical: its first coefficient is not 0 when it has one (10_state.md R40, R46). -/
abbrev Machine.State.canonicalR (s : State) : Prop := s.rLen ≠ 0 → s.elem .polyR 0 ≠ 0

/-- The sequencer is busy with this word. -/
def Machine.Sequencer.pendingIs : Sequencer → Word → Bool
  | .idle, _ => false
  | .busy w _, v => w == v

/-- While a command is pending, DONE, ERR, ERR_CODE and ERR_INFO are clear and LAST_CMD is its word
(60_exceptions.md R306). -/
abbrev Machine.State.pendingClear (s : State) : Prop :=
  s.seq = .idle ∨
    (s.seq.pendingIs s.lastCmd = true ∧ s.done = false ∧ s.err = false ∧ s.errCode = .none ∧ s.errInfo = 0)

/-- DONE and ERR are never both 1, DONE goes with no error code, ERR with one (10_state.md R33, R36). -/
abbrev Machine.State.statusSound (s : State) : Prop :=
  ¬(s.done = true ∧ s.err = true) ∧ (s.done = true → s.errCode = .none ∧ s.errInfo = 0)
    ∧ (s.err = true → s.errCode ≠ .none)

/-- The invariant that every step keeps. -/
abbrev Machine.State.Inv (s : State) : Prop :=
  s.memoriesSound ∧ s.canonicalR ∧ s.pendingClear ∧ s.statusSound

/-! ### Safe runs -/

/-- A run of any length never stops with a fault or a refusal. -/
def SafeFrom (s : State) : Prop := ∀ n, ∃ t, Sys2Proof.core.run n s = .next t

/-! ### What a command leaves unchanged, and how it ends -/

/-- A destination holds in `t` what it held in `s`; memories are compared by reading every element or cell. -/
def Machine.Dest.unchanged (s t : State) : Dest → Prop
  | .res0 => t.res0 = s.res0
  | .res1 => t.res1 = s.res1
  | .res2 => t.res2 = s.res2
  | .res3 => t.res3 = s.res3
  | .res4 => t.res4 = s.res4
  | .regR => t.rLen = s.rLen ∧ ∀ k, t.elem .polyR k = s.elem .polyR k
  | .regA => t.aLen = s.aLen ∧ ∀ k, t.elem .polyA k = s.elem .polyA k
  | .regB => t.bLen = s.bLen ∧ ∀ k, t.elem .polyB k = s.elem .polyB k
  | .cwOut => ∀ k, t.elem .cwOut k = s.elem .cwOut k
  | .cwLen => t.cwLen = s.cwLen
  | .gridVer => t.gridVer = s.gridVer
  | .grid => ∀ r c, t.cell r c = s.cell r c
  | .trialScore => t.trialScore = s.trialScore

/-- What no command writes: CTRL, WERR, CFG, DATA_LEN, CW_IN, LAST_CMD, and the host's side (30_encoding.md R117). -/
def neverWritten (s t : State) : Prop :=
  t.irqEn = s.irqEn ∧ t.werr = s.werr ∧ t.cfg = s.cfg ∧ t.dataLen = s.dataLen ∧ t.lastCmd = s.lastCmd
    ∧ (∀ k, t.elem .cwIn k = s.elem .cwIn k) ∧ t.host = s.host ∧ t.busData = s.busData

/-- Everything outside a list of destinations, besides the status, is unchanged. -/
def onlyWrites (ds : List Dest) (s t : State) : Prop := (∀ d, d ∉ ds → d.unchanged s t) ∧ neverWritten s t

/-- A completion without an error (60_exceptions.md R308): DONE is 1, BUSY 0, the error fields as they were. -/
def succeeded (s t : State) : Prop :=
  t.seq = .idle ∧ t.done = true ∧ t.err = s.err ∧ t.errCode = s.errCode ∧ t.errInfo = s.errInfo

/-- A completion with an error (R308): ERR is 1 with its code and information, BUSY 0, DONE as it was. -/
def failed (s t : State) (code : ErrorCode) (info : Word) : Prop :=
  t.seq = .idle ∧ t.done = s.done ∧ t.err = true ∧ t.errCode = code ∧ t.errInfo = info

/-- The command ends with an error, and changes at most `ds` besides the status. -/
def failsWith (i : Instr) (s : State) (code : ErrorCode) (info : Word) (ds : List Dest) : Prop :=
  ∃ t, exec i s = .next t ∧ failed s t code info ∧ onlyWrites ds s t

/-! ### Reference arithmetic -/

/-- Multiplication by x modulo x^8 + x^4 + x^3 + x^2 + 1, that is 0x11D (10_state.md R50). -/
def timesX (a : Byte) : Byte := if a.msb then (a <<< 1) ^^^ 0x1D else a <<< 1

/-- The product of two bytes as polynomials over GF(2) modulo 0x11D: bit i of b adds a times x^i. -/
def fieldProduct (a b : Byte) : Byte :=
  (List.range 8).foldl (fun acc i => if b.getLsbD i then acc ^^^ (Nat.repeat timesX i a) else acc) 0

/-- The coefficient of index k of a product: the sum of a[i] b[k - i] (41_poly.md R163, R164). -/
def convolution (a b : List Byte) (k : Nat) : Byte :=
  (List.range (k + 1)).foldl (fun acc i => acc ^^^ fieldProduct (a.getD i 0) (b.getD (k - i) 0)) 0

/-- The value of a polynomial at a point, by Horner's rule. -/
def evalAt (p : List Byte) (x : Byte) : Byte := p.foldl (fun acc c => fieldProduct acc x ^^^ c) 0

/-- The sum of two polynomials, aligned at their constant terms. -/
def polySum (p q : List Byte) : List Byte :=
  List.zipWith (· ^^^ ·) (p.leftpad (max p.length q.length) 0) (q.leftpad (max p.length q.length) 0)

/-- The product of two polynomials by its coefficients. -/
def polyTimes (p q : List Byte) : List Byte := (List.range (p.length + q.length - 1)).map (convolution p q)

/-! ### Runs of commands, versions, cells -/

/-- The commands run one after another, each to its completion. -/
def runCommands : List Instr → State → Option State
  | [], s => some s
  | i :: t, s =>
    match exec i s with
    | .next u => runCommands t u
    | _ => none

/-- CFG.VERSION is a version (00_scope.md R7). -/
def legalVersion (s : State) : Prop := 1 ≤ s.cfg.version.toNat ∧ s.cfg.version.toNat ≤ 40

/-- Two states show the same cells in an area of `dim` rows and columns. -/
def sameCells (dim : Nat) (s t : State) : Prop := ∀ r c, r < dim → c < dim → t.cell r c = s.cell r c

end Sys2Proof
end

