-- ==== Sys2Proof/Certificates/Slice0/Obligations.lean ====
section
/-! DEFINITION. The statements about QRCORE for the provers, from the numbered rules of spec/. Where a command
writes a destination, the statement says what it holds, and `onlyWrites` says that everything else is
unchanged: every other register, every element of every other memory, every cell of GRID. -/

open Sys2Proof Sys2Proof.Machine

/-! ### Encoding and decoding -/

/-- Decoding the word of a well-formed command gives the command back, with every operand at every value
(30_encoding.md R110 to R112, R114, R120). -/
def Obligations.DecodeOfEncodeIsTheCommand : Prop := ∀ i : Instr, WellFormed i → decode (encode i) = .ok i

/-- 30_encoding.md R119: a word that decodes is the word of its command, which is well-formed. -/
def Obligations.EncodeOfDecodeIsTheWord : Prop :=
  ∀ (w : Word) (i : Instr), decode w = .ok i → WellFormed i ∧ encode i = w

/-- 30_encoding.md R115: the illegal opcodes are exactly the listed ones, and running such a word changes no state
except the status: ERR = 1, ERR_CODE = ILLEGAL_CMD, ERR_INFO = w, BUSY = 0. -/
def Obligations.IllegalOpcodesAreExactlyTheGaps : Prop :=
  (∀ w : Word, decode w = .error .illegalOpcode ↔
    let op := w.toNat % 256
    (0x04 ≤ op ∧ op ≤ 0x0F) ∨ (0x15 ≤ op ∧ op ≤ 0x1F) ∨ (0x21 ≤ op ∧ op ≤ 0x2F) ∨ (0x3A ≤ op ∧ op ≤ 0xFF)) ∧
  (∀ (s : State) (w : Word), decode w = .error .illegalOpcode →
    s.runWord w = .next { s with seq := .idle, err := true, errCode := .illegalCmd, errInfo := w })

/-- 30_encoding.md R110 and R116: a word with a legal opcode is refused exactly when a reserved bit of the
opcode's format is 1: w[15:8] for GF_EXP (0x01) and GF_MUL (0x03), w[31:24] or w[15:8] for GF_LOG (0x02) and
POLY_GEN (0x12), w[31:8] for every other opcode. Running it is not executing the command: it ends with ILLEGAL_CMD,
ERR_INFO = w, and changes the status alone. -/
def Obligations.ReservedBitsAreRefused : Prop :=
  (∀ w : Word, decode w ≠ .error .illegalOpcode →
    let op := w.toNat % 256
    (decode w = .error .reservedBits ↔
      if op = 0x01 ∨ op = 0x03 then w.toNat / 256 % 256 ≠ 0
      else if op = 0x02 ∨ op = 0x12 then w.toNat / 2 ^ 24 ≠ 0 ∨ w.toNat / 256 % 256 ≠ 0
      else w.toNat / 256 ≠ 0)) ∧
  (∀ (s : State) (w : Word), decode w = .error .reservedBits →
    s.runWord w = .next { s with seq := .idle, err := true, errCode := .illegalCmd, errInfo := w })

/-- Words written out from the formats of 30_encoding.md R111 and the vectors E1 to E9 of 95_test_vectors.md. -/
def Obligations.SampleWordsDecode : Prop :=
  decode 0x00000000 = .ok .nop ∧ decode 0xFFFF0001 = .ok (.gfExp (-1)) ∧ decode 0x001D0002 = .ok (.gfLog 0x1D)
    ∧ decode 0x02800003 = .ok (.gfMul 0x80 0x02) ∧ decode 0x00030012 = .ok (.polyGen 3)
    ∧ decode 0x00000020 = .ok .rsEncode ∧ decode 0x00000039 = .ok .autobuild
    ∧ decode 0x01050002 = .error .reservedBits ∧ decode 0x0000003A = .error .illegalOpcode

/-! ### Steps -/

/-- The completion step runs the decoded command: when the pending word decodes to i, and no host action lands
first, the step is exec of i; when it decodes to nothing, the step ends it with ILLEGAL_CMD; and a fetched word runs
in the very next step (60_exceptions.md R306, R308; what lands first is the model's choice, log 1, 2, 17). -/
def Obligations.StepRunsTheDecodedCommand : Prop :=
  (∀ (s : State) (w : Word) (n : Nat) (i : Instr), s.seq = .busy w n → completesNow n s.host = true →
    decode w = .ok i → step s = exec i s) ∧
  (∀ (s : State) (w : Word) (n : Nat) (e : DecodeError), s.seq = .busy w n → completesNow n s.host = true →
    decode w = .error e → step s = .next { s with seq := .idle, err := true, errCode := .illegalCmd, errInfo := w }) ∧
  (∀ (s : State) (w : Word) (i : Instr), decode w = .ok i →
    step (s.withFetchWord 32 w.toNat) = exec i (s.withFetchWord 32 w.toNat))

/-- 60_exceptions.md R306 with 20_memory.md R82: a host write of w to CMD (byte addresses 0x0C to 0x0F) while idle
is accepted whatever DONE and ERR were: LAST_CMD takes w, DONE, ERR, ERR_CODE and ERR_INFO are cleared, BUSY
becomes 1, and nothing else changes but the model's count of draws. -/
def Obligations.CmdWriteIsAccepted : Prop :=
  ∀ (s : State) (a : BusAddr) (w : Word) (rest : List HostAction), s.seq = .idle → s.host = .write a w :: rest →
    a.toNat / 4 = 3 →
    ∃ n, step s = .next { s with
      seq := .busy w n
      host := rest
      lastCmd := w
      done := false
      err := false
      errCode := .none
      errInfo := 0
      draws := s.draws + 1 }

/-- 93_implementation_defined.md: "No entry is stuck: every command completes"; and 20_memory.md R82: no access
faults. No step of any state stops. -/
def Obligations.NoStepStops : Prop := ∀ s : State, SafeFrom s

/-! ### The field unit -/

/-- 40_gf.md R142: gexp(n) is 2^n in the field: gexp(0) = 1, each further exponent is a multiplication by x
modulo 0x11D, the exponent counts modulo 255, and the value is never 0. -/
def Obligations.GexpIsThePowerOfTwo : Prop :=
  gexp 0 = 1 ∧ ∀ n : Int, gexp (n + 1) = timesX (gexp n) ∧ gexp (n + 255) = gexp n ∧ gexp n ≠ 0

/-- GF_EXP (40_gf.md R143): RES0 is EXP[n mod 255] zero-extended, DONE is set, nothing else changes. -/
def Obligations.GfExpWritesTheExponential : Prop :=
  ∀ (n : Int) (s : State), exec (.gfExp n) s =
    .next { s with seq := .idle, done := true, res0 := (expTable (n % 255).toNat).setWidth 32 }

/-- GF_LOG (40_gf.md R145, R146): for a ≠ 0, RES0 is the l in 0..254 with gexp(l) = a and nothing else changes;
for a = 0 the command ends with DOMAIN_ERROR, information 0, and changes at most RES0. -/
def Obligations.GfLogWritesTheLogarithm : Prop :=
  (∀ (a : Byte) (s : State), a ≠ 0 → ∃ l : Nat, l ≤ 254 ∧ gexp l = a ∧
    exec (.gfLog a) s = .next { s with seq := .idle, done := true, res0 := BitVec.ofNat 32 l }) ∧
  (∀ s : State, failsWith (.gfLog 0) s .domainError 0 [.res0])

/-- GF_MUL (40_gf.md R147, R148): for non-zero a and b, RES0 is the product of a and b modulo 0x11D, computed
without the tables, and nothing else changes; a zero operand ends it with DOMAIN_ERROR, a checked first. -/
def Obligations.GfMulWritesTheFieldProduct : Prop :=
  (∀ (a b : Byte) (s : State), a ≠ 0 → b ≠ 0 →
    exec (.gfMul a b) s = .next { s with seq := .idle, done := true, res0 := (fieldProduct a b).setWidth 32 }) ∧
  (∀ (b : Byte) (s : State), failsWith (.gfMul 0 b) s .domainError 0x00000000 [.res0]) ∧
  (∀ (a : Byte) (s : State), a ≠ 0 → failsWith (.gfMul a 0) s .domainError 0x00010000 [.res0])

/-- 40_gf.md R149 (a), (b): the product is commutative, 1 is neutral, and gexp(255 - glog(a)) is the inverse of a. -/
def Obligations.FieldLawsHold : Prop :=
  (∀ a b : Byte, gmul a b = gmul b a) ∧ (∀ a : Byte, a ≠ 0 → gmul a 1 = some a) ∧
  (∀ (a : Byte) (l : Nat), glog a = some l → gmul a (gexp (255 - l)) = some 1)

/-- NOP (40_gf.md R140): every register and memory is unchanged and DONE is set. -/
def Obligations.NopChangesOnlyStatus : Prop :=
  ∀ s : State, exec .nop s = .next { s with seq := .idle, done := true }

/-! ### The polynomial engine -/

/-- 41_poly.md R160: an operand is its register's coefficients with the leading zero elements stripped, and the
commands that read A and B do not change them. -/
def Obligations.OperandsAreReadCanonical : Prop :=
  ∀ s : State,
    (∃ z, s.elems .polyA s.aLen.toNat = List.replicate z 0 ++ s.operandA ∧ s.operandA.head? ≠ some 0) ∧
    (∃ z, s.elems .polyB s.bLen.toNat = List.replicate z 0 ++ s.operandB ∧ s.operandB.head? ≠ some 0) ∧
    ∀ i ∈ [Instr.polyMul, .polyMod], ∃ t, exec i s = .next t ∧ Dest.regA.unchanged s t ∧ Dest.regB.unchanged s t

/-- POLY_MUL (41_poly.md R163): on operands without zero coefficients whose product fits, R_LEN is
len(a) + len(b) - 1, every coefficient is the sum of the products of its contributing pairs, and nothing
outside R changes. -/
def Obligations.PolyMulWritesTheProduct : Prop :=
  ∀ s : State, s.aLen.toNat ≤ 256 → s.bLen.toNat ≤ 256 → s.operandA ≠ [] → s.operandB ≠ [] →
    0 ∉ s.operandA → 0 ∉ s.operandB → s.operandA.length + s.operandB.length ≤ 257 →
    ∃ t, exec .polyMul s = .next t ∧ succeeded s t ∧ onlyWrites [.regR] s t ∧
      t.rLen.val = s.operandA.length + s.operandB.length - 1 ∧
      ∀ k, k < t.rLen.val → t.elem .polyR k = convolution s.operandA s.operandB k

/-- POLY_MUL's errors in the order of 41_poly.md R163 and 60_exceptions.md R304: lengths, empty operands, overflow,
the least zero coefficient of A, then of B. -/
def Obligations.PolyMulReportsTheFirstError : Prop :=
  ∀ s : State,
    let a := s.operandA
    let b := s.operandB
    (256 < s.aLen.toNat → failsWith .polyMul s .rangeError (BitVec.ofNat 32 s.aLen.toNat) [.regR]) ∧
    (s.aLen.toNat ≤ 256 → 256 < s.bLen.toNat →
      failsWith .polyMul s .rangeError (BitVec.ofNat 32 (0x10000 + s.bLen.toNat)) [.regR]) ∧
    (s.aLen.toNat ≤ 256 → s.bLen.toNat ≤ 256 →
      (a = [] → failsWith .polyMul s .domainError 0x0000FFFF [.regR]) ∧
      (a ≠ [] → b = [] → failsWith .polyMul s .domainError 0x0001FFFF [.regR]) ∧
      (a ≠ [] → b ≠ [] →
        (256 < a.length + b.length - 1 →
          failsWith .polyMul s .polyOverflow (BitVec.ofNat 32 (a.length + b.length - 1)) [.regR]) ∧
        (a.length + b.length - 1 ≤ 256 →
          (∀ i, a[i]? = some 0 → 0 ∉ a.take i →
            failsWith .polyMul s .domainError (BitVec.ofNat 32 i) [.regR]) ∧
          (0 ∉ a → ∀ j, b[j]? = some 0 → 0 ∉ b.take j →
            failsWith .polyMul s .domainError (BitVec.ofNat 32 (0x10000 + j)) [.regR]))))

/-- POLY_MOD (41_poly.md R166): it completes when B is not empty and, if a division step runs, has no zero
coefficient; R is shorter than B, and is A itself when A is shorter than B; nothing outside R changes. -/
def Obligations.PolyModWritesTheRemainder : Prop :=
  ∀ s : State, s.aLen.toNat ≤ 256 → s.bLen.toNat ≤ 256 → s.operandB ≠ [] →
    (s.operandA.length < s.operandB.length ∨ 0 ∉ s.operandB) →
    ∃ t, exec .polyMod s = .next t ∧ succeeded s t ∧ onlyWrites [.regR] s t ∧
      t.rLen.val < s.operandB.length ∧ (t.rLen ≠ 0 → t.elem .polyR 0 ≠ 0) ∧
      (s.operandA.length < s.operandB.length → t.coeffsR = s.operandA)

/-- 41_poly.md R167: on success there is a polynomial q with a = q * b + r over GF(2^8) and len(r) < len(b). -/
def Obligations.PolyModDivides : Prop :=
  ∀ s : State, s.aLen.toNat ≤ 256 → s.bLen.toNat ≤ 256 → s.operandB ≠ [] →
    (s.operandA.length < s.operandB.length ∨ 0 ∉ s.operandB) →
    ∃ t q, exec .polyMod s = .next t ∧ t.coeffsR.length < s.operandB.length ∧
      s.operandA = canon (polySum (polyTimes q s.operandB) t.coeffsR)

/-- POLY_MOD's errors in the order of 41_poly.md R166 and 60_exceptions.md R304. -/
def Obligations.PolyModReportsTheFirstError : Prop :=
  ∀ s : State,
    let a := s.operandA
    let b := s.operandB
    (256 < s.aLen.toNat → failsWith .polyMod s .rangeError (BitVec.ofNat 32 s.aLen.toNat) [.regR]) ∧
    (s.aLen.toNat ≤ 256 → 256 < s.bLen.toNat →
      failsWith .polyMod s .rangeError (BitVec.ofNat 32 (0x10000 + s.bLen.toNat)) [.regR]) ∧
    (s.aLen.toNat ≤ 256 → s.bLen.toNat ≤ 256 →
      (b = [] → failsWith .polyMod s .domainError 0x0001FFFF [.regR]) ∧
      (b ≠ [] → b.length ≤ a.length → ∀ j, b[j]? = some 0 → 0 ∉ b.take j →
        failsWith .polyMod s .domainError (BitVec.ofNat 32 (0x10000 + j)) [.regR]))

/-- POLY_GEN (41_poly.md R169, R170): for every k it completes with R_LEN = k + 1, leading coefficient 1 and the
coefficients of genpoly(k); nothing outside R changes. -/
def Obligations.PolyGenWritesTheGenerator : Prop :=
  ∀ (k : Byte) (s : State), ∃ t, exec (.polyGen k) s = .next t ∧ succeeded s t ∧ onlyWrites [.regR] s t ∧
    t.rLen.val = k.toNat + 1 ∧ t.elem .polyR 0 = 1 ∧ t.coeffsR = genpoly k.toNat

/-- 41_poly.md R170: genpoly(k) has the roots gexp(0), ..., gexp(k-1): after POLY_GEN k, R is 0 at each of them. -/
def Obligations.PolyGenHasItsRoots : Prop :=
  ∀ (k : Byte) (s t : State), exec (.polyGen k) s = .next t → ∀ i : Nat, i < k.toNat → evalAt t.coeffsR (gexp i) = 0

/-- POLY_MOVE_RA and POLY_MOVE_RB (41_poly.md R173, R174): the length and the R_LEN coefficients are copied, the
elements above stay, and nothing outside A (B) changes. -/
def Obligations.PolyMovesCopyR : Prop :=
  ∀ s : State,
    (∃ t, exec .polyMoveRA s = .next t ∧ succeeded s t ∧ onlyWrites [.regA] s t ∧ t.aLen.toNat = s.rLen.val ∧
      (∀ k, k < s.rLen.val → t.elem .polyA k = s.elem .polyR k) ∧
      (∀ k, s.rLen.val ≤ k → t.elem .polyA k = s.elem .polyA k)) ∧
    (∃ t, exec .polyMoveRB s = .next t ∧ succeeded s t ∧ onlyWrites [.regB] s t ∧ t.bLen.toNat = s.rLen.val ∧
      (∀ k, k < s.rLen.val → t.elem .polyB k = s.elem .polyR k) ∧
      (∀ k, s.rLen.val ≤ k → t.elem .polyB k = s.elem .polyB k))

/-! ### The Reed-Solomon encoder -/

/-- RS_ENCODE (42_rs.md R200, R206): with a legal version and DATA_LEN of at least the data capacity it completes;
CW_LEN is the total codeword count, RES0 the capacity, CW_OUT[0..CW_LEN-1] the interleaved codewords of the
first capacity elements of CW_IN; the elements of CW_OUT above and everything else are unchanged. -/
def Obligations.RsEncodeWritesTheCodewords : Prop :=
  ∀ s : State, legalVersion s → ∃ bs, rsBlocks s.cfg.version.toNat (levelOfCode s.cfg.ecl) = some bs ∧
    (capacityOf bs ≤ s.dataLen.toNat →
      ∃ t, exec .rsEncode s = .next t ∧ succeeded s t ∧ onlyWrites [.cwOut, .cwLen, .res0] s t ∧
        t.cwLen.toNat = (bs.map RsBlock.total).sum ∧ t.res0.toNat = capacityOf bs ∧
        (∀ k, k < t.cwLen.toNat →
          (rsCodewords bs (s.elems .cwIn (capacityOf bs)))[k]? = some (t.elem .cwOut k)) ∧
        (∀ k, t.cwLen.toNat ≤ k → t.elem .cwOut k = s.elem .cwOut k))

/-- 42_rs.md R202: the remainder r has at most ec coefficients, and parity codeword i is r[i + len(r) - ec], or 0 when
that index is negative. For every ec up to 30 (EC_MAX) and every data, the codeword polynomial data ++ parity is 0 at
gexp(0), ..., gexp(ec-1): every syndrome is zero (R204). -/
def Obligations.RsParityHasZeroSyndromes : Prop :=
  ∀ (d : List Byte) (ec : Nat),
    let r := pmod (rsDividend d ec) (genpoly ec)
    r.length ≤ ec ∧ (rsParity d ec).length = ec ∧
    (∀ i, i < ec → (rsParity d ec)[i]? = some (if ec ≤ i + r.length then r.getD (i + r.length - ec) 0 else 0)) ∧
    (ec ≤ 30 → ∀ i : Nat, i < ec → evalAt (d ++ rsParity d ec) (gexp i) = 0)

/-- 42_rs.md R200 and R205, for every block list: block j's data is the piece of the input after the data of the blocks
before it. Its data byte i comes after the first i data bytes of every block (of all of them where a block has fewer) and
after the data bytes i of the blocks before it; its parity byte i stands likewise among the parity bytes, after all data.
There are no other codewords; those of one block are its data followed by its parity. -/
def Obligations.RsInterleavesTheBlocks : Prop :=
  (∀ (bs : List RsBlock) (d : List Byte), d.length = capacityOf bs →
    let out := rsCodewords bs d
    out.length = (bs.map (fun x => x.data + x.ec)).sum ∧
    ∀ j b, bs[j]? = some b →
      let start := capacityOf (bs.take j)
      (∀ i, i < b.data →
        out[(bs.map (fun x => min i x.data)).sum + (bs.take j).countP (fun x => decide (i < x.data))]? = d[start + i]?) ∧
      (∀ i, i < b.ec →
        out[capacityOf bs + (bs.map (fun x => min i x.ec)).sum + (bs.take j).countP (fun x => decide (i < x.ec))]?
          = (rsParity ((d.drop start).take b.data) b.ec)[i]?)) ∧
  (∀ (b : RsBlock) (d : List Byte), d.length = b.data → rsCodewords [b] d = d ++ rsParity d b.ec)

/-- RS_ENCODE's errors (42_rs.md R193, R200): RANGE_ERROR with the version outside 1..40; BUFFER_BOUNDS with the
cumulative offset of the first block whose data would run past DATA_LEN. -/
def Obligations.RsEncodeReportsTheFirstError : Prop :=
  ∀ s : State,
    (¬ legalVersion s → failsWith .rsEncode s .rangeError (s.cfg.version.setWidth 32) [.cwOut, .cwLen, .res0]) ∧
    (∀ bs j, rsBlocks s.cfg.version.toNat (levelOfCode s.cfg.ecl) = some bs → j < bs.length →
      s.dataLen.toNat < capacityOf (bs.take (j + 1)) → capacityOf (bs.take j) ≤ s.dataLen.toNat →
      failsWith .rsEncode s .bufferBounds (BitVec.ofNat 32 (capacityOf (bs.take (j + 1)))) [.cwOut, .cwLen, .res0])

/-! ### The structural placer -/

/-- GRID_CLEAR (43_placer.md R221, 60_exceptions.md R307): a legal version is latched and every cell of the new area is
unset; an illegal one ends with RANGE_ERROR(v) and changes at most GRID_VER and GRID (what they then hold: log 4). -/
def Obligations.GridClearMakesTheEmptyGrid : Prop :=
  ∀ s : State,
    (legalVersion s → ∃ t, exec .gridClear s = .next t ∧ succeeded s t ∧ onlyWrites [.gridVer, .grid] s t ∧
      t.gridVer = s.cfg.version ∧ t.dim = 4 * s.cfg.version.toNat + 17 ∧
      ∀ r c, r < t.dim → c < t.dim → t.cell r c = .unset) ∧
    (¬ legalVersion s → failsWith .gridClear s .rangeError (s.cfg.version.setWidth 32) [.gridVer, .grid])

/-- PLACE_FINDER (43_placer.md R222, R223): the three windows hold the finder pattern with its light separator,
whatever they held; every other cell of the area keeps its value. -/
def Obligations.PlaceFinderDrawsThreeFinders : Prop :=
  ∀ s : State, s.gridVer ≠ 0 → ∃ t, exec .placeFinder s = .next t ∧ succeeded s t ∧ onlyWrites [.grid] s t ∧
    ∀ r c, r < s.dim → c < s.dim → t.cell r c =
      if r ≤ 7 ∧ c ≤ 7 then cellOfBool (finderDark r c)
      else if s.dim - 8 ≤ r ∧ c ≤ 7 then cellOfBool (finderDark (r - (s.dim - 7 : Int)) c)
      else if r ≤ 7 ∧ s.dim - 8 ≤ c then cellOfBool (finderDark r (c - (s.dim - 7 : Int)))
      else s.cell r c

/-- PLACE_ALIGN (43_placer.md R225, R227, R228): the 25 cells around every table combination hold the pattern if
its centre was unset and are unchanged if it was set; cells of no footprint are unchanged. The version is GRID_VER (for
41..63, which only an unspecified one is: log 6). -/
def Obligations.PlaceAlignDrawsOnUnsetCentres : Prop :=
  ∀ s : State, s.gridVer ≠ 0 → ∃ t, exec .placeAlign s = .next t ∧ succeeded s t ∧ onlyWrites [.grid] s t ∧
    (∀ p ∈ alignCentres s.version, ∀ i j, i < 5 → j < 5 →
      t.cell (p.1 + i - 2) (p.2 + j - 2) =
        if s.cell p.1 p.2 = .unset then cellOfBool (i == 0 || i == 4 || j == 0 || j == 4 || (i == 2 && j == 2))
        else s.cell (p.1 + i - 2) (p.2 + j - 2)) ∧
    (∀ r c, r < s.dim → c < s.dim →
      (∀ p ∈ alignCentres s.version, ¬ (r ≤ p.1 + 2 ∧ p.1 ≤ r + 2 ∧ c ≤ p.2 + 2 ∧ p.2 ≤ c + 2)) →
      t.cell r c = s.cell r c)

/-- PLACE_TIMING (43_placer.md R230, R231): the unset cells of row 6 and column 6 take dark on an even coordinate and
light on an odd one; every other cell of the area keeps its value. -/
def Obligations.PlaceTimingFillsTheTimingLines : Prop :=
  ∀ s : State, s.gridVer ≠ 0 → ∃ t, exec .placeTiming s = .next t ∧ succeeded s t ∧ onlyWrites [.grid] s t ∧
    ∀ r c, r < s.dim → c < s.dim → t.cell r c =
      if s.cell r c = .unset ∧ c = 6 then (if r % 2 = 0 then .dark else .light)
      else if s.cell r c = .unset ∧ r = 6 then (if c % 2 = 0 then .dark else .light)
      else s.cell r c

/-- PLACE_FORMAT (43_placer.md R235, R236): bit i of the format word stands in both strips and the dark module is
dark, all of them light in test mode; every cell of no strip keeps its value. -/
def Obligations.PlaceFormatWritesBothStrips : Prop :=
  ∀ s : State, s.gridVer ≠ 0 → ∃ t, exec .placeFormat s = .next t ∧ succeeded s t ∧ onlyWrites [.grid] s t ∧
    (∀ i, i < 15 →
      let v := cellOfBool (!s.cfg.test && (formatWord s.cfg.ecl.toNat s.cfg.mask.toNat).testBit i)
      t.cell (formatVertical s.dim i).1 (formatVertical s.dim i).2 = v ∧
      t.cell (formatHorizontal s.dim i).1 (formatHorizontal s.dim i).2 = v) ∧
    t.cell (s.dim - 8) 8 = cellOfBool (!s.cfg.test) ∧
    (∀ r c, r < s.dim → c < s.dim →
      ¬ (c = 8 ∧ (r ≤ 5 ∨ r = 7 ∨ r = 8 ∨ s.dim - 8 ≤ r)) → ¬ (r = 8 ∧ (c ≤ 5 ∨ c = 7 ∨ s.dim - 8 ≤ c)) →
      t.cell r c = s.cell r c)

/-- 43_placer.md R237 and R242, the printed format words (row e of the code, column m of the mask) and the printed
version words of versions 7 to 40. -/
def Obligations.BchWordsAreThePrintedOnes : Prop :=
  (List.range 4).map (fun e => (List.range 8).map (formatWord e)) =
    [[0x5412, 0x5125, 0x5E7C, 0x5B4B, 0x45F9, 0x40CE, 0x4F97, 0x4AA0],
     [0x77C4, 0x72F3, 0x7DAA, 0x789D, 0x662F, 0x6318, 0x6C41, 0x6976],
     [0x1689, 0x13BE, 0x1CE7, 0x19D0, 0x0762, 0x0255, 0x0D0C, 0x083B],
     [0x355F, 0x3068, 0x3F31, 0x3A06, 0x24B4, 0x2183, 0x2EDA, 0x2BED]] ∧
  (List.range 34).map (fun k => versionWord (k + 7)) =
    [0x07C94, 0x085BC, 0x09A99, 0x0A4D3, 0x0BBF6, 0x0C762, 0x0D847, 0x0E60D, 0x0F928, 0x10B78, 0x1145D, 0x12A17]
    ++ [0x13532, 0x149A6, 0x15683, 0x168C9, 0x177EC, 0x18EC4, 0x191E1, 0x1AFAB, 0x1B08E, 0x1CC1A, 0x1D33F, 0x1ED75]
    ++ [0x1F250, 0x209D5, 0x216F0, 0x228BA, 0x2379F, 0x24B0B, 0x2542E, 0x26A64, 0x27541, 0x28C69]

/-- 43_placer.md R238: after PLACE_FORMAT with TEST = 0, any f below 2^15 whose bits are the vertical strip, and
any whose bits are the horizontal strip, gives back the level code and the mask, and its low ten bits are the BCH
remainder of its upper bits. -/
def Obligations.FormatStripsGiveBackLevelAndMask : Prop :=
  ∀ s t : State, s.gridVer ≠ 0 → s.cfg.test = false → exec .placeFormat s = .next t → ∀ f : Nat, f < 2 ^ 15 →
    ((∀ i, i < 15 → (f.testBit i = true ↔ t.cell (formatVertical s.dim i).1 (formatVertical s.dim i).2 = .dark)) ∨
     (∀ i, i < 15 → (f.testBit i = true ↔ t.cell (formatHorizontal s.dim i).1 (formatHorizontal s.dim i).2 = .dark))) →
    (f ^^^ g15Mask) / 2 ^ 13 = s.cfg.ecl.toNat ∧ (f ^^^ g15Mask) / 2 ^ 10 % 8 = s.cfg.mask.toNat ∧
    (f ^^^ g15Mask) % 2 ^ 10 = bchrem ((f ^^^ g15Mask) / 2 ^ 10 * 2 ^ 10) g15

/-- PLACE_VERSION (43_placer.md R240): below version 7 no cell changes; from version 7 on, bit i of the version word
stands in both blocks, all light in test mode, and every cell of no block keeps its value. The version is GRID_VER (for
41..63, which only an unspecified one is: log 6). -/
def Obligations.PlaceVersionWritesBothBlocks : Prop :=
  ∀ s : State, s.gridVer ≠ 0 → ∃ t, exec .placeVersion s = .next t ∧ succeeded s t ∧ onlyWrites [.grid] s t ∧
    (s.version < 7 → sameCells s.dim s t) ∧
    (7 ≤ s.version →
      (∀ i, i < 18 →
        let v := cellOfBool (!s.cfg.test && (versionWord s.version).testBit i)
        t.cell (i / 3) (i % 3 + s.dim - 11) = v ∧ t.cell (i % 3 + s.dim - 11) (i / 3) = v) ∧
      (∀ r c, r < s.dim → c < s.dim → ¬ (r ≤ 5 ∧ s.dim - 11 ≤ c ∧ c ≤ s.dim - 9) →
        ¬ (c ≤ 5 ∧ s.dim - 11 ≤ r ∧ r ≤ s.dim - 9) → t.cell r c = s.cell r c))

/-- 10_state.md R43: the active area has side DIM(GRID_VER) for 1..40, and is empty for 0. 43_placer.md R220, 44_mapper.md R265
and 60_exceptions.md R307: with GRID_VER = 0 a placing command and MAP_DATA raise RANGE_ERROR(0), change at most GRID
besides the status, and change no cell that the host can read. -/
def Obligations.GridCommandsNeedAGrid : Prop :=
  (∀ s : State, s.gridVer.toNat ≤ 40 → s.dim = if s.gridVer = 0 then 0 else 4 * s.gridVer.toNat + 17) ∧
  (∀ s : State, s.gridVer = 0 →
    ∀ i ∈ [Instr.placeFinder, .placeAlign, .placeTiming, .placeFormat, .placeVersion, .mapData],
      ∃ t, exec i s = .next t ∧ failed s t .rangeError 0 ∧ onlyWrites [.grid] s t ∧
        ∀ r c, t.busWord (.cell r c) = s.busWord (.cell r c))

/-! ### The mapper, the penalty and the builds -/

/-- 44_mapper.md R262: the scan names every cell of the area outside column 6 exactly once, in this order. With k the number
of columns to the right of column c, column 6 left out, cell (r, c) is in pair k / 2; each pair has 2 * dim cells; pair 0 goes
upward from row dim - 1, and the direction alternates; in a row the right cell of the pair (k even) comes first. -/
def Obligations.ScanNamesEveryCellOnceInOrder : Prop :=
  ∀ v, 1 ≤ v → v ≤ 40 →
    let dim := dimOf v
    (scanOrder dim).Nodup ∧ (∀ r c, (r, c) ∈ scanOrder dim ↔ r < dim ∧ c < dim ∧ c ≠ 6) ∧
    ∀ r c, r < dim → c < dim → c ≠ 6 →
      let k := if 6 < c then dim - 1 - c else dim - 2 - c
      (scanOrder dim)[k / 2 * (2 * dim) + 2 * (if k / 2 % 2 = 0 then dim - 1 - r else r) + k % 2]? = some (r, c)

/-- MAP_DATA (44_mapper.md R261, R263, R265): with a grid and codewords that fit, the n-th visited cell holds bit
7 - n mod 8 of codeword n div 8, or 0 after the last, XOR the mask; cells that were set and the cells of column 6
keep their values. -/
def Obligations.MapDataPlacesTheBits : Prop :=
  ∀ s : State, s.gridVer ≠ 0 → 8 * s.cwLen.toNat ≤ s.board.unsetCount →
    ∃ t, exec .mapData s = .next t ∧ succeeded s t ∧ onlyWrites [.grid] s t ∧
      (∀ n p, (visitedCells s.dim s.board)[n]? = some p →
        t.cell p.1 p.2 = cellOfBool
          ((if n / 8 < s.cwLen.toNat then (s.elem .cwOut (n / 8)).getLsbD (7 - n % 8) else false)
            ^^ maskBit s.cfg.mask.toNat p.1 p.2)) ∧
      (∀ r c, r < s.dim → c < s.dim → s.cell r c ≠ .unset ∨ c = 6 → t.cell r c = s.cell r c) ∧
      (∀ r c, r < s.dim → c < s.dim → c ≠ 6 → t.cell r c ≠ .unset)

/-- 44_mapper.md R264, 60_exceptions.md R307: with a grid and 8 * CW_LEN above the number of unset cells, MAP_DATA raises
CAPACITY_OVERFLOW(CW_LEN) and changes at most GRID besides the status (what GRID then holds: log 4); CW_LEN above CW_MAX
always is that case. -/
def Obligations.MapDataReportsOverflow : Prop :=
  ∀ s : State, s.gridVer ≠ 0 →
    (s.board.unsetCount < 8 * s.cwLen.toNat →
      failsWith .mapData s .capacityOverflow (s.cwLen.setWidth 32) [.grid]) ∧
    (4096 < s.cwLen.toNat → s.board.unsetCount < 8 * s.cwLen.toNat)

/-- SCORE (44_mapper.md R270 to R275): on a complete grid RES1..RES4 are the four components of the penalty over the
cells of the area, RES0 is their sum without a wrap, and nothing else changes. -/
def Obligations.ScoreWritesThePenalty : Prop :=
  ∀ s : State, s.gridVer ≠ 0 → s.board.unsetCount = 0 →
    let dark := fun r c => decide (s.cell r c = .dark)
    ∃ t, exec .score s = .next t ∧ succeeded s t ∧ onlyWrites [.res0, .res1, .res2, .res3, .res4] s t ∧
      t.res1.toNat = penalty1 s.dim dark ∧ t.res2.toNat = penalty2 s.dim dark ∧
      t.res3.toNat = penalty3 s.dim dark ∧ t.res4.toNat = penalty4 s.dim dark ∧
      t.res0.toNat = t.res1.toNat + t.res2.toNat + t.res3.toNat + t.res4.toNat

/-- SCORE's errors (44_mapper.md R275): RANGE_ERROR(0) without a grid, INCOMPLETE_GRID with the number of unset cells;
at most RES0..RES4 change. -/
def Obligations.ScoreNeedsACompleteGrid : Prop :=
  ∀ s : State,
    (s.gridVer = 0 → failsWith .score s .rangeError 0 [.res0, .res1, .res2, .res3, .res4]) ∧
    (s.gridVer ≠ 0 → s.board.unsetCount ≠ 0 →
      failsWith .score s .incompleteGrid (BitVec.ofNat 32 s.board.unsetCount) [.res0, .res1, .res2, .res3, .res4])

/-- BUILD (44_mapper.md R280, R285): with a legal version and codewords that fit it completes; GRID_VER is the
version, the area is the built one, and no cell of it is unset. -/
def Obligations.BuildCompletesTheSymbol : Prop :=
  ∀ s : State, legalVersion s → 8 * s.cwLen.toNat ≤ structuralUnset s.cfg.version.toNat →
    ∃ t, exec .build s = .next t ∧ succeeded s t ∧ onlyWrites [.gridVer, .grid] s t ∧
      t.gridVer = s.cfg.version ∧
      t.board = buildBoard s.cfg.version.toNat s.cfg.ecl.toNat s.cfg.mask.toNat s.cfg.test s.codewords ∧
      ∀ r c, r < t.dim → c < t.dim → t.cell r c ≠ .unset

/-- 44_mapper.md R280: the result of BUILD equals the grid left by GRID_CLEAR, PLACE_FINDER, PLACE_ALIGN, PLACE_TIMING,
PLACE_FORMAT, PLACE_VERSION, MAP_DATA with the same CFG, run one by one; none of them fails: they start with ERR clear, as
an accepted command does (60_exceptions.md R306), and ERR is still clear after the last. -/
def Obligations.BuildEqualsTheCommandSequence : Prop :=
  ∀ s : State, legalVersion s → 8 * s.cwLen.toNat ≤ structuralUnset s.cfg.version.toNat →
    ∃ t u, exec .build s = .next t ∧
      runCommands [.gridClear, .placeFinder, .placeAlign, .placeTiming, .placeFormat, .placeVersion, .mapData]
        { s with err := false } = some u ∧
      u.gridVer = t.gridVer ∧ sameCells t.dim t u ∧ u.err = false

/-- BUILD's and AUTOBUILD's errors (44_mapper.md R280, R282): RANGE_ERROR(v), then CAPACITY_OVERFLOW(CW_LEN); at most their
destinations change. -/
def Obligations.BuildsReportTheFirstError : Prop :=
  ∀ s : State,
    (¬ legalVersion s →
      failsWith .build s .rangeError (s.cfg.version.setWidth 32) [.gridVer, .grid] ∧
      failsWith .autobuild s .rangeError (s.cfg.version.setWidth 32) [.gridVer, .grid, .res0, .res1, .trialScore]) ∧
    (legalVersion s → structuralUnset s.cfg.version.toNat < 8 * s.cwLen.toNat →
      failsWith .build s .capacityOverflow (s.cwLen.setWidth 32) [.gridVer, .grid] ∧
      failsWith .autobuild s .capacityOverflow (s.cwLen.setWidth 32) [.gridVer, .grid, .res0, .res1, .trialScore])

/-- AUTOBUILD (44_mapper.md R282): with a legal version and codewords that fit it completes; RES0 is the lowest mask
whose test build has the lowest score, RES1 that score, TRIAL_SCORE the eight scores; the grid is the one BUILD gives
with that mask and TEST = 0; nothing else changes. -/
def Obligations.AutobuildChoosesTheBestMask : Prop :=
  ∀ s : State, legalVersion s → 8 * s.cwLen.toNat ≤ structuralUnset s.cfg.version.toNat →
    ∃ t u, exec .autobuild s = .next t ∧ succeeded s t ∧
      onlyWrites [.gridVer, .grid, .res0, .res1, .trialScore] s t ∧
      t.res0.toNat < 8 ∧
      (∀ m : Fin 8, (t.trialScore[m.val]).toNat
        = trialPenalty s.cfg.version.toNat s.cfg.ecl.toNat s.codewords m.val) ∧
      (∀ m : Fin 8, t.res1.toNat ≤ (t.trialScore[m.val]).toNat ∧
        (m.val < t.res0.toNat → t.res1.toNat < (t.trialScore[m.val]).toNat) ∧
        (m.val = t.res0.toNat → t.res1 = t.trialScore[m.val])) ∧
      exec .build { s with cfg := { s.cfg with mask := t.res0.setWidth 3, test := false } } = .next u ∧
      t.gridVer = u.gridVer ∧ sameCells u.dim u t

/-- 44_mapper.md R284: scoring each test build again gives TRIAL_SCORE[m]: BUILD with TEST = 1 and mask m, then SCORE, from a
state with ERR clear, as an accepted command has it; neither fails. -/
def Obligations.TrialScoresAreBuildThenScore : Prop :=
  ∀ s t : State, legalVersion s → 8 * s.cwLen.toNat ≤ structuralUnset s.cfg.version.toNat → exec .autobuild s = .next t →
    ∀ m : Fin 8, ∃ u,
      runCommands [.build, .score] { s with cfg := { s.cfg with mask := BitVec.ofNat 3 m.val, test := true }, err := false }
        = some u ∧ u.err = false ∧ u.res0 = t.trialScore[m.val]

/-- 44_mapper.md R284 and 30_encoding.md R117: BUILD and AUTOBUILD depend on the state they read only: two states with the
same CFG, CW_LEN and codewords that meet the conditions of completion get the same grid, and the same choice and scores. -/
def Obligations.BuildsDependOnTheirOperandsOnly : Prop :=
  ∀ s s' : State, legalVersion s → 8 * s.cwLen.toNat ≤ structuralUnset s.cfg.version.toNat →
    s'.cfg.version = s.cfg.version → s'.cfg.ecl = s.cfg.ecl → s'.cwLen = s.cwLen →
    (∀ k, k < s.cwLen.toNat → s'.elem .cwOut k = s.elem .cwOut k) →
    (s'.cfg = s.cfg → ∃ t t', exec .build s = .next t ∧ exec .build s' = .next t' ∧ t'.gridVer = t.gridVer ∧
      sameCells t.dim t t') ∧
    (∃ t t', exec .autobuild s = .next t ∧ exec .autobuild s' = .next t' ∧ t'.gridVer = t.gridVer ∧
      sameCells t.dim t t' ∧ t'.res0 = t.res0 ∧ t'.res1 = t.res1 ∧ t'.trialScore = t.trialScore)

/-! ### Status, interrupt, the bus -/

/-- 60_exceptions.md R308 and R320: every command ends idle with DONE set and the error fields as they were, or with
ERR set and a code, DONE as it was; either way IRQ is then IRQ_EN. -/
def Obligations.EveryCommandEndsWithDoneOrErr : Prop :=
  ∀ (i : Instr) (s : State), ∃ t, exec i s = .next t ∧ t.irq = s.irqEn ∧
    (succeeded s t ∨ ∃ code info, code ≠ .none ∧ failed s t code info)

/-- 30_encoding.md R117: no command writes a register or a memory that is not in its row, on success or error. -/
def Obligations.CommandsWriteOnlyTheirRow : Prop :=
  ∀ (i : Instr) (s t : State), exec i s = .next t → onlyWrites (destsOf i) s t

/-- 20_memory.md R87 and 10_state.md R34: an idle host read returns the target's word and has no side effect; CMD and
unmapped offsets read 0, ID reads its constant. -/
def Obligations.IdleReadsHaveNoSideEffect : Prop :=
  ∀ (s : State) (a : BusAddr) (rest : List HostAction), s.seq = .idle → s.host = .read a :: rest →
    step s = .next { s with host := rest, busData := s.busWord (targetOf a) } ∧
    (targetOf a = .cmd ∨ targetOf a = .unmapped → s.busWord (targetOf a) = 0) ∧
    (a.toNat < 4 → s.busWord (targetOf a) = 0x51520007)

/-- 20_memory.md R85: the unmapped offsets, by word index addr[19:2], and what an idle access there does: nothing; a
write to a read-only register or to POLY_R is ignored. -/
def Obligations.UnmappedAndReadOnlyWritesAreIgnored : Prop :=
  (∀ a : BusAddr, targetOf a = .unmapped ↔
    let off := a.toNat / 4 * 4
    off = 0x1C ∨ (0x34 ≤ off ∧ off ≤ 0x3C) ∨ off = 0x4C ∨ off = 0x5C ∨ (0x80 ≤ off ∧ off ≤ 0xFFC)
      ∨ (0x1C00 ≤ off ∧ off ≤ 0x3FFC) ∨ (0xC000 ≤ off ∧ off ≤ 0x3FFFC) ∨ 0x80000 ≤ off) ∧
  (∀ (s : State) (a : BusAddr) (v : Word) (rest : List HostAction), s.seq = .idle → s.host = .write a v :: rest →
    targetOf a = .unmapped ∨ a.toNat / 4 = 0 ∨ (0x14 ≤ a.toNat ∧ a.toNat < 0x34) ∨ (0x48 ≤ a.toNat ∧ a.toNat < 0x4C) ∨
      (0x58 ≤ a.toNat ∧ a.toNat < 0x80) ∨ (0x1800 ≤ a.toNat ∧ a.toNat < 0x1C00) →
    step s = .next { s with host := rest })

/-- 20_memory.md R90, while BUSY = 1 and before the completion (how many accesses land there: log 2): a host write to CTRL
(word 1) or STATUS (word 2) takes effect as when idle; one to CMD, CFG, a length register, POLY_A, POLY_B, CW_IN, CW_OUT or
GRID is dropped, changes no state and sets WERR (for a cell outside the active area log 24). R85: a write to an unmapped
offset, a read-only register or POLY_R is ignored with no status change; that this holds while BUSY is the model's
inference (log 8). R90: a read of ID, CTRL, STATUS, CFG, LAST_CMD or an unmapped offset returns its value; any other read
changes nothing but the word on the bus, which is free, and the model's count of draws (log 7). -/
def Obligations.BusyAccessesFollowTheRule : Prop :=
  ∀ (s : State) (w : Word) (n : Nat) (a : BusAddr) (v : Word) (rest : List HostAction), s.seq = .busy w (n + 1) →
    let u := { s with seq := .busy w n, host := rest }
    (s.host = .write a v :: rest →
      (a.toNat / 4 = 1 → step s = .next (if v.getLsbD 0 then u.softReset else { u with irqEn := v.getLsbD 1 })) ∧
      (a.toNat / 4 = 2 → step s = .next { u with
        done := s.done && !v.getLsbD 1
        err := s.err && !v.getLsbD 2
        werr := s.werr && !v.getLsbD 3 }) ∧
      (a.toNat / 4 ∈ [0x0C / 4, 0x10 / 4, 0x40 / 4, 0x44 / 4, 0x50 / 4, 0x54 / 4] ∨ (0x1000 ≤ a.toNat ∧ a.toNat < 0x1800)
          ∨ (0x4000 ≤ a.toNat ∧ a.toNat < 0xC000) ∨ (0x40000 ≤ a.toNat ∧ a.toNat < 0x80000) →
        step s = .next { u with werr := true }) ∧
      (targetOf a = .unmapped ∨ a.toNat / 4 = 0 ∨ (0x14 ≤ a.toNat ∧ a.toNat < 0x34) ∨ (0x48 ≤ a.toNat ∧ a.toNat < 0x4C) ∨
          (0x58 ≤ a.toNat ∧ a.toNat < 0x80) ∨ (0x1800 ≤ a.toNat ∧ a.toNat < 0x1C00) →
        step s = .next u)) ∧
    (s.host = .read a :: rest →
      (targetOf a ∈ [.id, .ctrl, .status, .cfg, .lastCmd, .unmapped] →
        step s = .next { u with busData := u.busWord (targetOf a) }) ∧
      (targetOf a ∉ [.id, .ctrl, .status, .cfg, .lastCmd, .unmapped] →
        ∃ x, step s = .next { u with busData := x, draws := s.draws + 1 }))

/-- 60_exceptions.md R320: IRQ is IRQ_EN and (DONE or ERR); it is cleared by a STATUS write of 1 to DONE and ERR, by
the acceptance of a command, by a soft reset and by clearing IRQ_EN; WERR does not assert it. -/
def Obligations.IrqIsALevel : Prop :=
  ∀ (s : State) (v : Word),
    (s.irq = true ↔ s.irqEn = true ∧ (s.done = true ∨ s.err = true)) ∧
    (v.getLsbD 1 = true → v.getLsbD 2 = true → (s.busWrite 0x00008 v).irq = false) ∧
    (s.seq = .idle → (s.busWrite 0x0000C v).irq = false) ∧
    (v.getLsbD 0 = true → (s.busWrite 0x00004 v).irq = false) ∧
    (v.getLsbD 0 = false → v.getLsbD 1 = false → (s.busWrite 0x00004 v).irq = false) ∧
    ∀ b : Bool, State.irq { s with werr := b } = s.irq

/-- STATUS (10_state.md R33): the word shows each field at its bits and 0 in the reserved bits; a STATUS write, idle or
BUSY, clears DONE, ERR and WERR where it has a 1 and changes nothing else, ERR_CODE included. -/
def Obligations.StatusShowsAndClearsItsFields : Prop :=
  ∀ (s : State) (v : Word),
    s.statusWord.getLsbD 0 = s.busy ∧ s.statusWord.getLsbD 1 = s.done ∧ s.statusWord.getLsbD 2 = s.err ∧
    s.statusWord.getLsbD 3 = s.werr ∧ s.statusWord.extractLsb' 8 4 = s.errCode.number ∧
    s.statusWord.extractLsb' 4 4 = 0 ∧ s.statusWord.extractLsb' 12 20 = 0 ∧
    s.busWrite 0x00008 v = { s with
      done := s.done && !v.getLsbD 1
      err := s.err && !v.getLsbD 2
      werr := s.werr && !v.getLsbD 3 }

/-- 20_memory.md R83 and 10_state.md R45, R47, R48, R49: an idle write to an element keeps bits 7:0 and changes no other
element, and is read back zero-extended; an idle write to a cell of the active area stores what bits 1:0 say, is read back
as those bits (0 when bit 1 is 0), and changes no other cell; outside it nothing changes and a read gives 0. -/
def Obligations.ElementAndCellWritesAreReadBack : Prop :=
  ∀ (s : State) (a : BusAddr) (v : Word), s.seq = .idle →
    (∀ id k, targetOf a = .element id k → id ≠ .polyR →
      (s.busWrite a v).busWord (targetOf a) = (v.extractLsb' 0 8).setWidth 32 ∧
      ∀ id' k', (id' ≠ id ∨ k' ≠ k) → (s.busWrite a v).elem id' k' = s.elem id' k') ∧
    (∀ r c, targetOf a = .cell r c →
      (r < s.dim → c < s.dim → (s.busWrite a v).cell r c
        = (if v.getLsbD 1 then (if v.getLsbD 0 then .dark else .light) else .unset) ∧
        (s.busWrite a v).busWord (targetOf a) = if v.getLsbD 1 then v &&& 3 else 0) ∧
      (∀ r' c', c' < 256 → (r' ≠ r ∨ c' ≠ c) → (s.busWrite a v).cell r' c' = s.cell r' c') ∧
      (s.dim ≤ r ∨ s.dim ≤ c → s.busWrite a v = s ∧ s.busWord (targetOf a) = 0))

/-- 10_state.md R35, R39, R41, R42: an idle write to CFG or a length register stores its implemented bits, which are read
back; reserved bits read 0. -/
def Obligations.RegisterWritesKeepTheirBits : Prop :=
  ∀ (s : State) (v : Word), s.seq = .idle →
    (s.busWrite 0x00010 v).busWord .cfg = v &&& 0x0001733F ∧ (s.busWrite 0x00040 v).busWord .aLen = v &&& 0x1FF ∧
    (s.busWrite 0x00044 v).busWord .bLen = v &&& 0x1FF ∧ (s.busWrite 0x00050 v).busWord .dataLen = v &&& 0x1FFF ∧
    (s.busWrite 0x00054 v).busWord .cwLen = v &&& 0x1FFF

/-- The soft reset (70_reset_and_hazards.md R342): a CTRL write with bit 0 = 1, idle or BUSY, gives every register its
reset value, IRQ_EN included, and leaves every memory as it is except the destinations of an aborted command. -/
def Obligations.SoftResetResetsTheRegisters : Prop :=
  ∀ (s : State) (v : Word), v.getLsbD 0 = true →
    let t := s.busWrite 0x00004 v
    t = { State.reset with
      polyA := t.polyA
      polyB := t.polyB
      polyR := t.polyR
      cwIn := t.cwIn
      cwOut := t.cwOut
      grid := t.grid
      draws := t.draws
      host := s.host
      busData := s.busData } ∧
    t.irq = false ∧ t.cwIn = s.cwIn ∧
    (s.seq = .idle → t.polyA = s.polyA ∧ t.polyB = s.polyB ∧ t.polyR = s.polyR ∧ t.cwOut = s.cwOut ∧ t.grid = s.grid) ∧
    (∀ w n, s.seq = .busy w n → ∀ d, d ∉ abortedDests w → ∀ k,
      (d = .regA → t.elem .polyA k = s.elem .polyA k) ∧ (d = .regB → t.elem .polyB k = s.elem .polyB k) ∧
      (d = .regR → t.elem .polyR k = s.elem .polyR k) ∧ (d = .cwOut → t.elem .cwOut k = s.elem .cwOut k) ∧
      (d = .grid → ∀ c, t.cell k c = s.cell k c))

/-- 10_state.md R55 and 70_reset_and_hazards.md R340, R341: the registers after a hardware reset, as a host reads them, and
that the block is idle with IRQ low: in State.reset, and after a hardware reset of any state. -/
def Obligations.ResetRegistersHoldTheirValues : Prop :=
  ∀ s : State, ∀ r ∈ [State.reset, s.hardReset],
    r.seq = .idle ∧ r.irq = false ∧ r.busWord .id = 0x51520007 ∧
    ∀ t ∈ [Target.ctrl, .status, .cfg, .errInfo, .lastCmd, .res0, .res1, .res2, .res3, .res4, .aLen, .bLen, .rLen, .dataLen,
      .cwLen, .gridVer, .trialScore 0, .trialScore 1, .trialScore 2, .trialScore 3, .trialScore 4, .trialScore 5,
      .trialScore 6, .trialScore 7, .cell 0 0], r.busWord t = 0

/-! ### The invariant -/

/-- The invariant holds after reset. -/
def Obligations.InvariantHoldsAtReset : Prop := State.reset.Inv

/-- Every step keeps the invariant: the memories stay canonical and list only elements they have (the model's form), R stays
a canonical polynomial (10_state.md R40, R46), DONE and ERR are never both 1 (R33), and while a command is pending the status
is clear and LAST_CMD is its word (60_exceptions.md R306). -/
def Obligations.EveryStepKeepsTheInvariant : Prop := ∀ s t : State, s.Inv → step s = .next t → t.Inv
end

