-- ==== Sys2Proof/Laws/Gf.lean ====
section
/-! SUPPORT. The field: what the tables EXP and LOG hold, and that the product of two bytes modulo 0x11D is the one
the logarithms give. -/

namespace Sys2Proof.Machine

/- One theorem at a time: several of the kernel evaluations below, run beside each other, need more
memory than a check has. -/
set_option Elab.async false

/-! ### The tables -/

/-- EXP[0] is 1, and each entry is the one before it times x (10_state.md R50). -/
theorem expTable_zero : expTable 0 = 1 := rfl

theorem expTable_succ : ∀ i < 255, expTable (i + 1) = timesX (expTable i) := by decide +kernel

theorem expTable_last : expTable 255 = expTable 0 := rfl

theorem expTable_ne_zero : ∀ i < 256, expTable i ≠ 0 := by decide +kernel

/-- LOG is the inverse of EXP on 0..254 (R51). -/
theorem logTable_expTable : ∀ i < 255, logTable (expTable i).toNat = some i := by decide +kernel

theorem logTable_range : ∀ a < 256, a ≠ 0 → ∃ l, l < 255 ∧ logTable a = some l ∧ (expTable l).toNat = a := by
  have h : ∀ a < 256, a ≠ 0 →
      ((logTable a).any (fun l => decide (l < 255) && decide ((expTable l).toNat = a))) = true := by decide +kernel
  intro a ha h0
  have := h a ha h0
  cases e : logTable a with
  | none => simp [e] at this
  | some l =>
    simp only [e, Option.any_some, Bool.and_eq_true, decide_eq_true_eq] at this
    exact ⟨l, this.1, rfl, this.2⟩

/-- glog has a value at every a that is not 0, and gexp gives a back. -/
theorem glog_spec {a : Byte} (h : a ≠ 0) : ∃ l : Nat, l < 255 ∧ glog a = some l ∧ gexp l = a := by
  obtain ⟨l, h1, h2, h3⟩ := logTable_range a.toNat a.isLt (fun e => h (BitVec.eq_of_toNat_eq e))
  refine ⟨l, h1, h2, BitVec.eq_of_toNat_eq ?_⟩
  have e : ((l : Int) % 255).toNat = l := by omega
  unfold gexp
  rw [e]; exact h3

theorem glog_zero : glog 0 = none := rfl

/-! ### gexp -/

theorem gexp_zero : gexp 0 = 1 := rfl

theorem gexp_add_255 (n : Int) : gexp (n + 255) = gexp n := by
  unfold gexp; congr 2; omega

theorem gexp_ne_zero (n : Int) : gexp n ≠ 0 := expTable_ne_zero _ (by omega)

/-- One more in the exponent is one multiplication by x. -/
theorem gexp_succ (n : Int) : gexp (n + 1) = timesX (gexp n) := by
  unfold gexp
  by_cases h : n % 255 = 254
  · have e1 : ((n + 1) % 255).toNat = 0 := by omega
    have e2 : (n % 255).toNat = 254 := by omega
    rw [e1, e2, ← expTable_succ 254 (by omega), expTable_last]
  · have e : ((n + 1) % 255).toNat = (n % 255).toNat + 1 := by omega
    rw [e, expTable_succ _ (by omega)]

theorem glog_gexp (n : Int) : glog (gexp n) = some (n % 255).toNat :=
  logTable_expTable _ (by omega)

/-! ### Multiplication modulo 0x11D -/

theorem timesX_zero : timesX 0 = 0 := rfl

theorem timesX_xor (a b : Byte) : timesX (a ^^^ b) = timesX a ^^^ timesX b := by
  unfold timesX
  rw [BitVec.msb_xor]
  ext i hi
  cases a.msb <;> cases b.msb <;> simp <;> grind

theorem repeat_timesX_xor (i : Nat) (a b : Byte) :
    Nat.repeat timesX i (a ^^^ b) = Nat.repeat timesX i a ^^^ Nat.repeat timesX i b := by
  induction i with
  | zero => rfl
  | succ i ih => simp only [Nat.repeat, ih, timesX_xor]

theorem repeat_timesX_comm (i : Nat) (a : Byte) : Nat.repeat timesX i (timesX a) = timesX (Nat.repeat timesX i a) := by
  induction i with
  | zero => rfl
  | succ i ih => simp only [Nat.repeat, ih]

theorem repeat_timesX_gexp (i : Nat) (n : Int) : Nat.repeat timesX i (gexp n) = gexp (n + i) := by
  induction i with
  | zero => simp [Nat.repeat]
  | succ i ih =>
    rw [Nat.repeat, ih, ← gexp_succ]
    congr 1
    push_cast
    omega

/-- The sum of `f i` over the bits i of b that are 1. -/
def bitSum (b : Byte) (f : Nat → Byte) (l : List Nat) (acc : Byte) : Byte :=
  l.foldl (fun acc i => if b.getLsbD i then acc ^^^ f i else acc) acc

theorem bitSum_xor (b : Byte) (f g : Nat → Byte) (l : List Nat) : ∀ x y : Byte,
    bitSum b (fun i => f i ^^^ g i) l (x ^^^ y) = bitSum b f l x ^^^ bitSum b g l y := by
  induction l with
  | nil => intro x y; rfl
  | cons i t ih =>
    intro x y
    simp only [bitSum, List.foldl_cons]
    by_cases h : b.getLsbD i = true
    · simp only [h, if_true]
      have e : x ^^^ y ^^^ (f i ^^^ g i) = (x ^^^ f i) ^^^ (y ^^^ g i) := by
        rw [BitVec.xor_assoc, BitVec.xor_assoc, ← BitVec.xor_assoc y, ← BitVec.xor_assoc (f i), BitVec.xor_comm y (f i)]
      rw [e]; exact ih _ _
    · simp only [h]; exact ih _ _

theorem bitSum_timesX (b : Byte) (f : Nat → Byte) (l : List Nat) : ∀ x : Byte,
    bitSum b (fun i => timesX (f i)) l (timesX x) = timesX (bitSum b f l x) := by
  induction l with
  | nil => intro x; rfl
  | cons i t ih =>
    intro x
    simp only [bitSum, List.foldl_cons]
    by_cases h : b.getLsbD i = true
    · simp only [h, if_true, ← timesX_xor]; exact ih _
    · simp only [h]; exact ih _

/-- The product is additive in its left factor. -/
theorem fieldProduct_xor_left (a a' b : Byte) : fieldProduct (a ^^^ a') b = fieldProduct a b ^^^ fieldProduct a' b := by
  have := bitSum_xor b (fun i => Nat.repeat timesX i a) (fun i => Nat.repeat timesX i a') (List.range 8) 0 0
  simp only [← repeat_timesX_xor] at this
  exact this

theorem fieldProduct_timesX_left (a b : Byte) : fieldProduct (timesX a) b = timesX (fieldProduct a b) := by
  have := bitSum_timesX b (fun i => Nat.repeat timesX i a) (List.range 8) 0
  simp only [← repeat_timesX_comm] at this
  exact this

theorem fieldProduct_one_left (b : Byte) : fieldProduct 1 b = b := by
  have h : ∀ n < 256, fieldProduct 1 (BitVec.ofNat 8 n) = BitVec.ofNat 8 n := by decide +kernel
  have := h b.toNat b.isLt
  simpa using this

theorem fieldProduct_zero_left (b : Byte) : fieldProduct 0 b = 0 := by
  have h : ∀ n < 256, fieldProduct 0 (BitVec.ofNat 8 n) = 0 := by decide +kernel
  have := h b.toNat b.isLt
  simpa using this

theorem fieldProduct_zero_right (a : Byte) : fieldProduct a 0 = 0 := by
  simp [fieldProduct, List.range, List.range.loop]

theorem fieldProduct_repeat_left (i : Nat) (a b : Byte) :
    fieldProduct (Nat.repeat timesX i a) b = Nat.repeat timesX i (fieldProduct a b) := by
  induction i with
  | zero => rfl
  | succ i ih => simp only [Nat.repeat, fieldProduct_timesX_left, ih]

/-- Powers of 2 multiply by adding their exponents. -/
theorem fieldProduct_gexp (m n : Int) : fieldProduct (gexp m) (gexp n) = gexp (m + n) := by
  have e : gexp m = Nat.repeat timesX (m % 255).toNat 1 := by
    rw [← gexp_zero, repeat_timesX_gexp]
    unfold gexp; congr 2; omega
  rw [e, fieldProduct_repeat_left, fieldProduct_one_left, repeat_timesX_gexp]
  unfold gexp; congr 2; omega

/-- gmul is the product modulo 0x11D on bytes that are not 0 (40_gf.md R147). -/
theorem gmul_eq {a b : Byte} (ha : a ≠ 0) (hb : b ≠ 0) : gmul a b = some (fieldProduct a b) := by
  obtain ⟨l, -, h2, h3⟩ := glog_spec ha
  obtain ⟨m, -, h5, h6⟩ := glog_spec hb
  simp only [gmul, h2, h5]
  rw [← h3, ← h6, fieldProduct_gexp]

/-- A product term is the product modulo 0x11D, a zero factor included. -/
theorem gterm_eq (a b : Byte) : gterm a b = fieldProduct a b := by
  by_cases ha : a = 0
  · rw [ha, fieldProduct_zero_left]; rfl
  by_cases hb : b = 0
  · rw [hb, fieldProduct_zero_right, gterm, gmul]
    cases glog a <;> rfl
  rw [gterm, gmul_eq ha hb, Option.getD_some]

theorem fieldProduct_ne_zero {a b : Byte} (ha : a ≠ 0) (hb : b ≠ 0) : fieldProduct a b ≠ 0 := by
  obtain ⟨l, -, -, rfl⟩ := glog_spec ha
  obtain ⟨m, -, -, rfl⟩ := glog_spec hb
  rw [fieldProduct_gexp]; exact gexp_ne_zero _

theorem fieldProduct_comm (a b : Byte) : fieldProduct a b = fieldProduct b a := by
  by_cases ha : a = 0
  · rw [ha, fieldProduct_zero_left, fieldProduct_zero_right]
  by_cases hb : b = 0
  · rw [hb, fieldProduct_zero_left, fieldProduct_zero_right]
  obtain ⟨l, -, -, rfl⟩ := glog_spec ha
  obtain ⟨m, -, -, rfl⟩ := glog_spec hb
  rw [fieldProduct_gexp, fieldProduct_gexp, Int.add_comm]

theorem fieldProduct_assoc (a b c : Byte) : fieldProduct (fieldProduct a b) c = fieldProduct a (fieldProduct b c) := by
  by_cases ha : a = 0
  · simp only [ha, fieldProduct_zero_left]
  by_cases hb : b = 0
  · simp only [hb, fieldProduct_zero_left, fieldProduct_zero_right]
  by_cases hc : c = 0
  · simp only [hc, fieldProduct_zero_right]
  obtain ⟨l, -, -, rfl⟩ := glog_spec ha
  obtain ⟨m, -, -, rfl⟩ := glog_spec hb
  obtain ⟨n, -, -, rfl⟩ := glog_spec hc
  simp only [fieldProduct_gexp, Int.add_assoc]

theorem fieldProduct_xor_right (a b b' : Byte) : fieldProduct a (b ^^^ b') = fieldProduct a b ^^^ fieldProduct a b' := by
  rw [fieldProduct_comm, fieldProduct_xor_left, fieldProduct_comm b, fieldProduct_comm b']

theorem fieldProduct_one_right (a : Byte) : fieldProduct a 1 = a := by
  rw [fieldProduct_comm, fieldProduct_one_left]

end Sys2Proof.Machine
end

