-- ==== Sys2Proof/Laws/State.lean ====
section
/-! SUPPORT. One lemma per field and named update of State: what the field holds after the update. A field that
is not named below for an update is in the update's own lemmas under Laws/. -/

namespace Sys2Proof.Machine

@[simp] theorem State.setR_seq (s : State) (p : List Byte) : (s.setR p).seq = s.seq := rfl
@[simp] theorem State.setR_irqEn (s : State) (p : List Byte) : (s.setR p).irqEn = s.irqEn := rfl
@[simp] theorem State.setR_done (s : State) (p : List Byte) : (s.setR p).done = s.done := rfl
@[simp] theorem State.setR_err (s : State) (p : List Byte) : (s.setR p).err = s.err := rfl
@[simp] theorem State.setR_werr (s : State) (p : List Byte) : (s.setR p).werr = s.werr := rfl
@[simp] theorem State.setR_errCode (s : State) (p : List Byte) : (s.setR p).errCode = s.errCode := rfl
@[simp] theorem State.setR_errInfo (s : State) (p : List Byte) : (s.setR p).errInfo = s.errInfo := rfl
@[simp] theorem State.setR_lastCmd (s : State) (p : List Byte) : (s.setR p).lastCmd = s.lastCmd := rfl
@[simp] theorem State.setR_cfg (s : State) (p : List Byte) : (s.setR p).cfg = s.cfg := rfl
@[simp] theorem State.setR_res0 (s : State) (p : List Byte) : (s.setR p).res0 = s.res0 := rfl
@[simp] theorem State.setR_res1 (s : State) (p : List Byte) : (s.setR p).res1 = s.res1 := rfl
@[simp] theorem State.setR_res2 (s : State) (p : List Byte) : (s.setR p).res2 = s.res2 := rfl
@[simp] theorem State.setR_res3 (s : State) (p : List Byte) : (s.setR p).res3 = s.res3 := rfl
@[simp] theorem State.setR_res4 (s : State) (p : List Byte) : (s.setR p).res4 = s.res4 := rfl
@[simp] theorem State.setR_aLen (s : State) (p : List Byte) : (s.setR p).aLen = s.aLen := rfl
@[simp] theorem State.setR_bLen (s : State) (p : List Byte) : (s.setR p).bLen = s.bLen := rfl
@[simp] theorem State.setR_rLen (s : State) (p : List Byte) : (s.setR p).rLen = Fin.ofNat 257 p.length := rfl
@[simp] theorem State.setR_dataLen (s : State) (p : List Byte) : (s.setR p).dataLen = s.dataLen := rfl
@[simp] theorem State.setR_cwLen (s : State) (p : List Byte) : (s.setR p).cwLen = s.cwLen := rfl
@[simp] theorem State.setR_gridVer (s : State) (p : List Byte) : (s.setR p).gridVer = s.gridVer := rfl
@[simp] theorem State.setR_trialScore (s : State) (p : List Byte) : (s.setR p).trialScore = s.trialScore := rfl
@[simp] theorem State.setR_polyA (s : State) (p : List Byte) : (s.setR p).polyA = s.polyA := rfl
@[simp] theorem State.setR_polyB (s : State) (p : List Byte) : (s.setR p).polyB = s.polyB := rfl
@[simp] theorem State.setR_polyR (s : State) (p : List Byte) : (s.setR p).polyR = (Memory.unwritten s.draws).writeFrom 0 p := rfl
@[simp] theorem State.setR_cwIn (s : State) (p : List Byte) : (s.setR p).cwIn = s.cwIn := rfl
@[simp] theorem State.setR_cwOut (s : State) (p : List Byte) : (s.setR p).cwOut = s.cwOut := rfl
@[simp] theorem State.setR_grid (s : State) (p : List Byte) : (s.setR p).grid = s.grid := rfl
@[simp] theorem State.setR_draws (s : State) (p : List Byte) : (s.setR p).draws = s.draws + 1 := rfl
@[simp] theorem State.setR_host (s : State) (p : List Byte) : (s.setR p).host = s.host := rfl
@[simp] theorem State.setR_busData (s : State) (p : List Byte) : (s.setR p).busData = s.busData := rfl

@[simp] theorem State.setBoard_seq (s : State) (g : Board) : (s.setBoard g).seq = s.seq := rfl
@[simp] theorem State.setBoard_irqEn (s : State) (g : Board) : (s.setBoard g).irqEn = s.irqEn := rfl
@[simp] theorem State.setBoard_done (s : State) (g : Board) : (s.setBoard g).done = s.done := rfl
@[simp] theorem State.setBoard_err (s : State) (g : Board) : (s.setBoard g).err = s.err := rfl
@[simp] theorem State.setBoard_werr (s : State) (g : Board) : (s.setBoard g).werr = s.werr := rfl
@[simp] theorem State.setBoard_errCode (s : State) (g : Board) : (s.setBoard g).errCode = s.errCode := rfl
@[simp] theorem State.setBoard_errInfo (s : State) (g : Board) : (s.setBoard g).errInfo = s.errInfo := rfl
@[simp] theorem State.setBoard_lastCmd (s : State) (g : Board) : (s.setBoard g).lastCmd = s.lastCmd := rfl
@[simp] theorem State.setBoard_cfg (s : State) (g : Board) : (s.setBoard g).cfg = s.cfg := rfl
@[simp] theorem State.setBoard_res0 (s : State) (g : Board) : (s.setBoard g).res0 = s.res0 := rfl
@[simp] theorem State.setBoard_res1 (s : State) (g : Board) : (s.setBoard g).res1 = s.res1 := rfl
@[simp] theorem State.setBoard_res2 (s : State) (g : Board) : (s.setBoard g).res2 = s.res2 := rfl
@[simp] theorem State.setBoard_res3 (s : State) (g : Board) : (s.setBoard g).res3 = s.res3 := rfl
@[simp] theorem State.setBoard_res4 (s : State) (g : Board) : (s.setBoard g).res4 = s.res4 := rfl
@[simp] theorem State.setBoard_aLen (s : State) (g : Board) : (s.setBoard g).aLen = s.aLen := rfl
@[simp] theorem State.setBoard_bLen (s : State) (g : Board) : (s.setBoard g).bLen = s.bLen := rfl
@[simp] theorem State.setBoard_rLen (s : State) (g : Board) : (s.setBoard g).rLen = s.rLen := rfl
@[simp] theorem State.setBoard_dataLen (s : State) (g : Board) : (s.setBoard g).dataLen = s.dataLen := rfl
@[simp] theorem State.setBoard_cwLen (s : State) (g : Board) : (s.setBoard g).cwLen = s.cwLen := rfl
@[simp] theorem State.setBoard_gridVer (s : State) (g : Board) : (s.setBoard g).gridVer = s.gridVer := rfl
@[simp] theorem State.setBoard_trialScore (s : State) (g : Board) : (s.setBoard g).trialScore = s.trialScore := rfl
@[simp] theorem State.setBoard_polyA (s : State) (g : Board) : (s.setBoard g).polyA = s.polyA := rfl
@[simp] theorem State.setBoard_polyB (s : State) (g : Board) : (s.setBoard g).polyB = s.polyB := rfl
@[simp] theorem State.setBoard_polyR (s : State) (g : Board) : (s.setBoard g).polyR = s.polyR := rfl
@[simp] theorem State.setBoard_cwIn (s : State) (g : Board) : (s.setBoard g).cwIn = s.cwIn := rfl
@[simp] theorem State.setBoard_cwOut (s : State) (g : Board) : (s.setBoard g).cwOut = s.cwOut := rfl
@[simp] theorem State.setBoard_grid (s : State) (g : Board) : (s.setBoard g).grid = memoryOf g := rfl
@[simp] theorem State.setBoard_draws (s : State) (g : Board) : (s.setBoard g).draws = s.draws := rfl
@[simp] theorem State.setBoard_host (s : State) (g : Board) : (s.setBoard g).host = s.host := rfl
@[simp] theorem State.setBoard_busData (s : State) (g : Board) : (s.setBoard g).busData = s.busData := rfl

@[simp] theorem State.accept_seq (s : State) (w : Word) : (s.accept w).seq = .busy w (Config.latency s.draws w) := rfl
@[simp] theorem State.accept_irqEn (s : State) (w : Word) : (s.accept w).irqEn = s.irqEn := rfl
@[simp] theorem State.accept_done (s : State) (w : Word) : (s.accept w).done = false := rfl
@[simp] theorem State.accept_err (s : State) (w : Word) : (s.accept w).err = false := rfl
@[simp] theorem State.accept_werr (s : State) (w : Word) : (s.accept w).werr = s.werr := rfl
@[simp] theorem State.accept_errCode (s : State) (w : Word) : (s.accept w).errCode = .none := rfl
@[simp] theorem State.accept_errInfo (s : State) (w : Word) : (s.accept w).errInfo = 0 := rfl
@[simp] theorem State.accept_lastCmd (s : State) (w : Word) : (s.accept w).lastCmd = w := rfl
@[simp] theorem State.accept_cfg (s : State) (w : Word) : (s.accept w).cfg = s.cfg := rfl
@[simp] theorem State.accept_res0 (s : State) (w : Word) : (s.accept w).res0 = s.res0 := rfl
@[simp] theorem State.accept_res1 (s : State) (w : Word) : (s.accept w).res1 = s.res1 := rfl
@[simp] theorem State.accept_res2 (s : State) (w : Word) : (s.accept w).res2 = s.res2 := rfl
@[simp] theorem State.accept_res3 (s : State) (w : Word) : (s.accept w).res3 = s.res3 := rfl
@[simp] theorem State.accept_res4 (s : State) (w : Word) : (s.accept w).res4 = s.res4 := rfl
@[simp] theorem State.accept_aLen (s : State) (w : Word) : (s.accept w).aLen = s.aLen := rfl
@[simp] theorem State.accept_bLen (s : State) (w : Word) : (s.accept w).bLen = s.bLen := rfl
@[simp] theorem State.accept_rLen (s : State) (w : Word) : (s.accept w).rLen = s.rLen := rfl
@[simp] theorem State.accept_dataLen (s : State) (w : Word) : (s.accept w).dataLen = s.dataLen := rfl
@[simp] theorem State.accept_cwLen (s : State) (w : Word) : (s.accept w).cwLen = s.cwLen := rfl
@[simp] theorem State.accept_gridVer (s : State) (w : Word) : (s.accept w).gridVer = s.gridVer := rfl
@[simp] theorem State.accept_trialScore (s : State) (w : Word) : (s.accept w).trialScore = s.trialScore := rfl
@[simp] theorem State.accept_polyA (s : State) (w : Word) : (s.accept w).polyA = s.polyA := rfl
@[simp] theorem State.accept_polyB (s : State) (w : Word) : (s.accept w).polyB = s.polyB := rfl
@[simp] theorem State.accept_polyR (s : State) (w : Word) : (s.accept w).polyR = s.polyR := rfl
@[simp] theorem State.accept_cwIn (s : State) (w : Word) : (s.accept w).cwIn = s.cwIn := rfl
@[simp] theorem State.accept_cwOut (s : State) (w : Word) : (s.accept w).cwOut = s.cwOut := rfl
@[simp] theorem State.accept_grid (s : State) (w : Word) : (s.accept w).grid = s.grid := rfl
@[simp] theorem State.accept_draws (s : State) (w : Word) : (s.accept w).draws = s.draws + 1 := rfl
@[simp] theorem State.accept_host (s : State) (w : Word) : (s.accept w).host = s.host := rfl
@[simp] theorem State.accept_busData (s : State) (w : Word) : (s.accept w).busData = s.busData := rfl

@[simp] theorem State.writeStatus_seq (s : State) (v : Word) : (s.writeStatus v).seq = s.seq := rfl
@[simp] theorem State.writeStatus_irqEn (s : State) (v : Word) : (s.writeStatus v).irqEn = s.irqEn := rfl
@[simp] theorem State.writeStatus_done (s : State) (v : Word) : (s.writeStatus v).done = (s.done && !v.getLsbD 1) := rfl
@[simp] theorem State.writeStatus_err (s : State) (v : Word) : (s.writeStatus v).err = (s.err && !v.getLsbD 2) := rfl
@[simp] theorem State.writeStatus_werr (s : State) (v : Word) : (s.writeStatus v).werr = (s.werr && !v.getLsbD 3) := rfl
@[simp] theorem State.writeStatus_errCode (s : State) (v : Word) : (s.writeStatus v).errCode = s.errCode := rfl
@[simp] theorem State.writeStatus_errInfo (s : State) (v : Word) : (s.writeStatus v).errInfo = s.errInfo := rfl
@[simp] theorem State.writeStatus_lastCmd (s : State) (v : Word) : (s.writeStatus v).lastCmd = s.lastCmd := rfl
@[simp] theorem State.writeStatus_cfg (s : State) (v : Word) : (s.writeStatus v).cfg = s.cfg := rfl
@[simp] theorem State.writeStatus_res0 (s : State) (v : Word) : (s.writeStatus v).res0 = s.res0 := rfl
@[simp] theorem State.writeStatus_res1 (s : State) (v : Word) : (s.writeStatus v).res1 = s.res1 := rfl
@[simp] theorem State.writeStatus_res2 (s : State) (v : Word) : (s.writeStatus v).res2 = s.res2 := rfl
@[simp] theorem State.writeStatus_res3 (s : State) (v : Word) : (s.writeStatus v).res3 = s.res3 := rfl
@[simp] theorem State.writeStatus_res4 (s : State) (v : Word) : (s.writeStatus v).res4 = s.res4 := rfl
@[simp] theorem State.writeStatus_aLen (s : State) (v : Word) : (s.writeStatus v).aLen = s.aLen := rfl
@[simp] theorem State.writeStatus_bLen (s : State) (v : Word) : (s.writeStatus v).bLen = s.bLen := rfl
@[simp] theorem State.writeStatus_rLen (s : State) (v : Word) : (s.writeStatus v).rLen = s.rLen := rfl
@[simp] theorem State.writeStatus_dataLen (s : State) (v : Word) : (s.writeStatus v).dataLen = s.dataLen := rfl
@[simp] theorem State.writeStatus_cwLen (s : State) (v : Word) : (s.writeStatus v).cwLen = s.cwLen := rfl
@[simp] theorem State.writeStatus_gridVer (s : State) (v : Word) : (s.writeStatus v).gridVer = s.gridVer := rfl
@[simp] theorem State.writeStatus_trialScore (s : State) (v : Word) : (s.writeStatus v).trialScore = s.trialScore := rfl
@[simp] theorem State.writeStatus_polyA (s : State) (v : Word) : (s.writeStatus v).polyA = s.polyA := rfl
@[simp] theorem State.writeStatus_polyB (s : State) (v : Word) : (s.writeStatus v).polyB = s.polyB := rfl
@[simp] theorem State.writeStatus_polyR (s : State) (v : Word) : (s.writeStatus v).polyR = s.polyR := rfl
@[simp] theorem State.writeStatus_cwIn (s : State) (v : Word) : (s.writeStatus v).cwIn = s.cwIn := rfl
@[simp] theorem State.writeStatus_cwOut (s : State) (v : Word) : (s.writeStatus v).cwOut = s.cwOut := rfl
@[simp] theorem State.writeStatus_grid (s : State) (v : Word) : (s.writeStatus v).grid = s.grid := rfl
@[simp] theorem State.writeStatus_draws (s : State) (v : Word) : (s.writeStatus v).draws = s.draws := rfl
@[simp] theorem State.writeStatus_host (s : State) (v : Word) : (s.writeStatus v).host = s.host := rfl
@[simp] theorem State.writeStatus_busData (s : State) (v : Word) : (s.writeStatus v).busData = s.busData := rfl

@[simp] theorem State.resetRegisters_seq (s : State) : (s.resetRegisters).seq = State.reset.seq := rfl
@[simp] theorem State.resetRegisters_irqEn (s : State) : (s.resetRegisters).irqEn = State.reset.irqEn := rfl
@[simp] theorem State.resetRegisters_done (s : State) : (s.resetRegisters).done = State.reset.done := rfl
@[simp] theorem State.resetRegisters_err (s : State) : (s.resetRegisters).err = State.reset.err := rfl
@[simp] theorem State.resetRegisters_werr (s : State) : (s.resetRegisters).werr = State.reset.werr := rfl
@[simp] theorem State.resetRegisters_errCode (s : State) : (s.resetRegisters).errCode = State.reset.errCode := rfl
@[simp] theorem State.resetRegisters_errInfo (s : State) : (s.resetRegisters).errInfo = State.reset.errInfo := rfl
@[simp] theorem State.resetRegisters_lastCmd (s : State) : (s.resetRegisters).lastCmd = State.reset.lastCmd := rfl
@[simp] theorem State.resetRegisters_cfg (s : State) : (s.resetRegisters).cfg = State.reset.cfg := rfl
@[simp] theorem State.resetRegisters_res0 (s : State) : (s.resetRegisters).res0 = State.reset.res0 := rfl
@[simp] theorem State.resetRegisters_res1 (s : State) : (s.resetRegisters).res1 = State.reset.res1 := rfl
@[simp] theorem State.resetRegisters_res2 (s : State) : (s.resetRegisters).res2 = State.reset.res2 := rfl
@[simp] theorem State.resetRegisters_res3 (s : State) : (s.resetRegisters).res3 = State.reset.res3 := rfl
@[simp] theorem State.resetRegisters_res4 (s : State) : (s.resetRegisters).res4 = State.reset.res4 := rfl
@[simp] theorem State.resetRegisters_aLen (s : State) : (s.resetRegisters).aLen = State.reset.aLen := rfl
@[simp] theorem State.resetRegisters_bLen (s : State) : (s.resetRegisters).bLen = State.reset.bLen := rfl
@[simp] theorem State.resetRegisters_rLen (s : State) : (s.resetRegisters).rLen = State.reset.rLen := rfl
@[simp] theorem State.resetRegisters_dataLen (s : State) : (s.resetRegisters).dataLen = State.reset.dataLen := rfl
@[simp] theorem State.resetRegisters_cwLen (s : State) : (s.resetRegisters).cwLen = State.reset.cwLen := rfl
@[simp] theorem State.resetRegisters_gridVer (s : State) : (s.resetRegisters).gridVer = State.reset.gridVer := rfl
@[simp] theorem State.resetRegisters_trialScore (s : State) : (s.resetRegisters).trialScore = State.reset.trialScore := rfl
@[simp] theorem State.resetRegisters_polyA (s : State) : (s.resetRegisters).polyA = s.polyA := rfl
@[simp] theorem State.resetRegisters_polyB (s : State) : (s.resetRegisters).polyB = s.polyB := rfl
@[simp] theorem State.resetRegisters_polyR (s : State) : (s.resetRegisters).polyR = s.polyR := rfl
@[simp] theorem State.resetRegisters_cwIn (s : State) : (s.resetRegisters).cwIn = s.cwIn := rfl
@[simp] theorem State.resetRegisters_cwOut (s : State) : (s.resetRegisters).cwOut = s.cwOut := rfl
@[simp] theorem State.resetRegisters_grid (s : State) : (s.resetRegisters).grid = s.grid := rfl
@[simp] theorem State.resetRegisters_draws (s : State) : (s.resetRegisters).draws = s.draws := rfl
@[simp] theorem State.resetRegisters_host (s : State) : (s.resetRegisters).host = s.host := rfl
@[simp] theorem State.resetRegisters_busData (s : State) : (s.resetRegisters).busData = s.busData := rfl

@[simp] theorem State.hardReset_seq (s : State) : (s.hardReset).seq = State.reset.seq := rfl
@[simp] theorem State.hardReset_irqEn (s : State) : (s.hardReset).irqEn = State.reset.irqEn := rfl
@[simp] theorem State.hardReset_done (s : State) : (s.hardReset).done = State.reset.done := rfl
@[simp] theorem State.hardReset_err (s : State) : (s.hardReset).err = State.reset.err := rfl
@[simp] theorem State.hardReset_werr (s : State) : (s.hardReset).werr = State.reset.werr := rfl
@[simp] theorem State.hardReset_errCode (s : State) : (s.hardReset).errCode = State.reset.errCode := rfl
@[simp] theorem State.hardReset_errInfo (s : State) : (s.hardReset).errInfo = State.reset.errInfo := rfl
@[simp] theorem State.hardReset_lastCmd (s : State) : (s.hardReset).lastCmd = State.reset.lastCmd := rfl
@[simp] theorem State.hardReset_cfg (s : State) : (s.hardReset).cfg = State.reset.cfg := rfl
@[simp] theorem State.hardReset_res0 (s : State) : (s.hardReset).res0 = State.reset.res0 := rfl
@[simp] theorem State.hardReset_res1 (s : State) : (s.hardReset).res1 = State.reset.res1 := rfl
@[simp] theorem State.hardReset_res2 (s : State) : (s.hardReset).res2 = State.reset.res2 := rfl
@[simp] theorem State.hardReset_res3 (s : State) : (s.hardReset).res3 = State.reset.res3 := rfl
@[simp] theorem State.hardReset_res4 (s : State) : (s.hardReset).res4 = State.reset.res4 := rfl
@[simp] theorem State.hardReset_aLen (s : State) : (s.hardReset).aLen = State.reset.aLen := rfl
@[simp] theorem State.hardReset_bLen (s : State) : (s.hardReset).bLen = State.reset.bLen := rfl
@[simp] theorem State.hardReset_rLen (s : State) : (s.hardReset).rLen = State.reset.rLen := rfl
@[simp] theorem State.hardReset_dataLen (s : State) : (s.hardReset).dataLen = State.reset.dataLen := rfl
@[simp] theorem State.hardReset_cwLen (s : State) : (s.hardReset).cwLen = State.reset.cwLen := rfl
@[simp] theorem State.hardReset_gridVer (s : State) : (s.hardReset).gridVer = State.reset.gridVer := rfl
@[simp] theorem State.hardReset_trialScore (s : State) : (s.hardReset).trialScore = State.reset.trialScore := rfl
@[simp] theorem State.hardReset_polyA (s : State) : (s.hardReset).polyA = .unwritten s.draws := rfl
@[simp] theorem State.hardReset_polyB (s : State) : (s.hardReset).polyB = .unwritten s.draws := rfl
@[simp] theorem State.hardReset_polyR (s : State) : (s.hardReset).polyR = .unwritten s.draws := rfl
@[simp] theorem State.hardReset_cwIn (s : State) : (s.hardReset).cwIn = .unwritten s.draws := rfl
@[simp] theorem State.hardReset_cwOut (s : State) : (s.hardReset).cwOut = .unwritten s.draws := rfl
@[simp] theorem State.hardReset_grid (s : State) : (s.hardReset).grid = .unwritten s.draws := rfl
@[simp] theorem State.hardReset_draws (s : State) : (s.hardReset).draws = s.draws + 1 := rfl
@[simp] theorem State.hardReset_host (s : State) : (s.hardReset).host = s.host := rfl
@[simp] theorem State.hardReset_busData (s : State) : (s.hardReset).busData = s.busData := rfl

@[simp] theorem State.setMem_seq (s : State) (id : MemId) (m : Memory Byte) : (s.setMem id m).seq = s.seq := by
  cases id <;> rfl
@[simp] theorem State.setMem_irqEn (s : State) (id : MemId) (m : Memory Byte) : (s.setMem id m).irqEn = s.irqEn := by
  cases id <;> rfl
@[simp] theorem State.setMem_done (s : State) (id : MemId) (m : Memory Byte) : (s.setMem id m).done = s.done := by
  cases id <;> rfl
@[simp] theorem State.setMem_err (s : State) (id : MemId) (m : Memory Byte) : (s.setMem id m).err = s.err := by
  cases id <;> rfl
@[simp] theorem State.setMem_werr (s : State) (id : MemId) (m : Memory Byte) : (s.setMem id m).werr = s.werr := by
  cases id <;> rfl
@[simp] theorem State.setMem_errCode (s : State) (id : MemId) (m : Memory Byte) : (s.setMem id m).errCode = s.errCode := by
  cases id <;> rfl
@[simp] theorem State.setMem_errInfo (s : State) (id : MemId) (m : Memory Byte) : (s.setMem id m).errInfo = s.errInfo := by
  cases id <;> rfl
@[simp] theorem State.setMem_lastCmd (s : State) (id : MemId) (m : Memory Byte) : (s.setMem id m).lastCmd = s.lastCmd := by
  cases id <;> rfl
@[simp] theorem State.setMem_cfg (s : State) (id : MemId) (m : Memory Byte) : (s.setMem id m).cfg = s.cfg := by
  cases id <;> rfl
@[simp] theorem State.setMem_res0 (s : State) (id : MemId) (m : Memory Byte) : (s.setMem id m).res0 = s.res0 := by
  cases id <;> rfl
@[simp] theorem State.setMem_res1 (s : State) (id : MemId) (m : Memory Byte) : (s.setMem id m).res1 = s.res1 := by
  cases id <;> rfl
@[simp] theorem State.setMem_res2 (s : State) (id : MemId) (m : Memory Byte) : (s.setMem id m).res2 = s.res2 := by
  cases id <;> rfl
@[simp] theorem State.setMem_res3 (s : State) (id : MemId) (m : Memory Byte) : (s.setMem id m).res3 = s.res3 := by
  cases id <;> rfl
@[simp] theorem State.setMem_res4 (s : State) (id : MemId) (m : Memory Byte) : (s.setMem id m).res4 = s.res4 := by
  cases id <;> rfl
@[simp] theorem State.setMem_aLen (s : State) (id : MemId) (m : Memory Byte) : (s.setMem id m).aLen = s.aLen := by
  cases id <;> rfl
@[simp] theorem State.setMem_bLen (s : State) (id : MemId) (m : Memory Byte) : (s.setMem id m).bLen = s.bLen := by
  cases id <;> rfl
@[simp] theorem State.setMem_rLen (s : State) (id : MemId) (m : Memory Byte) : (s.setMem id m).rLen = s.rLen := by
  cases id <;> rfl
@[simp] theorem State.setMem_dataLen (s : State) (id : MemId) (m : Memory Byte) : (s.setMem id m).dataLen = s.dataLen := by
  cases id <;> rfl
@[simp] theorem State.setMem_cwLen (s : State) (id : MemId) (m : Memory Byte) : (s.setMem id m).cwLen = s.cwLen := by
  cases id <;> rfl
@[simp] theorem State.setMem_gridVer (s : State) (id : MemId) (m : Memory Byte) : (s.setMem id m).gridVer = s.gridVer := by
  cases id <;> rfl
@[simp] theorem State.setMem_trialScore (s : State) (id : MemId) (m : Memory Byte) : (s.setMem id m).trialScore = s.trialScore := by
  cases id <;> rfl
@[simp] theorem State.setMem_grid (s : State) (id : MemId) (m : Memory Byte) : (s.setMem id m).grid = s.grid := by
  cases id <;> rfl
@[simp] theorem State.setMem_draws (s : State) (id : MemId) (m : Memory Byte) : (s.setMem id m).draws = s.draws := by
  cases id <;> rfl
@[simp] theorem State.setMem_host (s : State) (id : MemId) (m : Memory Byte) : (s.setMem id m).host = s.host := by
  cases id <;> rfl
@[simp] theorem State.setMem_busData (s : State) (id : MemId) (m : Memory Byte) : (s.setMem id m).busData = s.busData := by
  cases id <;> rfl

/-- A write while BUSY to any target but CTRL and STATUS sets WERR alone or does nothing (20_memory.md R85, R90). -/
theorem State.writeBusy_other (s : State) (v : Word) {t : Target} (hc : t ≠ .ctrl) (hs : t ≠ .status) :
    s.writeBusy v t = if hostWritable t then { s with werr := true } else s := by
  cases t <;> first | rfl | exact absurd rfl hc | exact absurd rfl hs

/-- While BUSY a write to a read-only or unmapped target is ignored (R85). -/
theorem State.writeBusy_ignored (s : State) (v : Word) {t : Target} (h : hostWritable t = false) : s.writeBusy v t = s := by
  rw [s.writeBusy_other v (fun e => by simp [e, hostWritable] at h) (fun e => by simp [e, hostWritable] at h), h]
  rfl

/-- A cell write keeps the size of the active area. -/
@[simp] theorem State.writeCell_dim (s : State) (r c : Nat) (v : Word) : (s.writeCell r c v).dim = s.dim := by
  unfold State.writeCell; split <;> rfl

/-- The memory replaced is the one read back. -/
@[simp] theorem State.mem_setMem_self (s : State) (id : MemId) (m : Memory Byte) : (s.setMem id m).mem id = m := by
  cases id <;> rfl

/-- The other memories stay. -/
theorem State.mem_setMem_ne (s : State) {id id' : MemId} (h : id' ≠ id) (m : Memory Byte) :
    (s.setMem id m).mem id' = s.mem id' := by
  cases id <;> cases id' <;> first | rfl | exact absurd rfl h

end Sys2Proof.Machine
end

