-- ==== Sys2Proof/Laws/Memory.lean ====
section
/-! SUPPORT. The memories: a read after a write, the other elements, and that every operation keeps the
canonical form. -/

namespace Sys2Proof.Machine

variable {α : Type}

theorem findCell_insertCell (k j : Nat) (v : α) (l : List (Nat × α)) :
    findCell j (insertCell k v l) = if j = k then some v else findCell j l := by
  induction l with
  | nil => by_cases h : j = k <;> simp [insertCell, findCell, h, Ne.symm]
  | cons c t ih =>
    simp only [insertCell]
    split
    · by_cases h : j = k <;> simp [findCell, h, eq_comm (a := k)]
    · split
      · by_cases h : j = k
        · simp [findCell, h]
        · have : ¬ c.1 = j := by omega
          simp [findCell, h, this, Ne.symm h]
      · by_cases hc : c.1 = j
        · have : ¬ j = k := by omega
          simp [findCell, hc, this]
        · simp [findCell, hc, ih]

theorem findCell_eraseCell (k j : Nat) (l : List (Nat × α)) :
    findCell j (eraseCell k l) = if j = k then none else findCell j l := by
  induction l with
  | nil => simp [eraseCell, findCell]
  | cons c t ih =>
    simp only [eraseCell]
    split
    · rename_i h
      by_cases hj : j = k
      · rw [ih, if_pos hj, if_pos hj]
      · have : ¬ c.1 = j := by omega
        simp [ih, hj, findCell, this]
    · by_cases hc : c.1 = j
      · have : ¬ j = k := by omega
        simp [findCell, hc, this]
      · simp [findCell, hc, ih]

/-- Read after write: the written element holds the value, every other element what it held. -/
theorem Memory.read_write [DecidableEq α] (free : Nat → Nat → α) (m : Memory α) (k j : Nat) (v : α) :
    (m.write k v).read free j = if j = k then v else m.read free j := by
  unfold Memory.write Memory.read
  by_cases hf : m.fill = .all v
  · by_cases h : j = k <;> simp [hf, findCell_eraseCell, h, Fill.value]
  · by_cases h : j = k <;> simp [hf, findCell_insertCell, h]

@[simp] theorem Memory.write_fill [DecidableEq α] (m : Memory α) (k : Nat) (v : α) : (m.write k v).fill = m.fill :=
  rfl

@[simp] theorem Memory.read_unwritten (free : Nat → Nat → α) (d k : Nat) :
    (Memory.unwritten d : Memory α).read free k = free d k := rfl

/-- A list written from index `k` is read back from `k` on; every other element holds what it held. -/
theorem Memory.read_writeFrom [DecidableEq α] (free : Nat → Nat → α) (vs : List α) :
    ∀ (m : Memory α) (k j : Nat), (m.writeFrom k vs).read free j
      = if k ≤ j then vs.getD (j - k) (m.read free j) else m.read free j := by
  induction vs with
  | nil => intro m k j; simp [Memory.writeFrom]
  | cons v t ih =>
    intro m k j
    simp only [Memory.writeFrom, ih, Memory.read_write]
    by_cases h : j = k
    · subst h
      have : ¬ j + 1 ≤ j := by omega
      simp [this]
    · by_cases h' : k + 1 ≤ j
      · have h2 : k ≤ j := by omega
        obtain ⟨n, rfl⟩ : ∃ n, j = k + 1 + n := ⟨j - (k + 1), by omega⟩
        have e : k + 1 + n - k = n + 1 := by omega
        simp [h2, h, e]
      · have h2 : ¬ k ≤ j := by omega
        simp [h', h2, h]

@[simp] theorem Memory.writeFrom_fill [DecidableEq α] (vs : List α) :
    ∀ (m : Memory α) (k : Nat), (m.writeFrom k vs).fill = m.fill := by
  induction vs with
  | nil => intro m k; rfl
  | cons v t ih => intro m k; simp [Memory.writeFrom, ih]

/-! ### The canonical form -/

theorem mem_insertCell {k : Nat} {v : α} {l : List (Nat × α)} {c : Nat × α} (h : c ∈ insertCell k v l) :
    c = (k, v) ∨ c ∈ l := by
  induction l with
  | nil => simpa [insertCell] using h
  | cons a t ih =>
    simp only [insertCell] at h
    split at h
    · simpa using h
    · split at h
      · rcases List.mem_cons.1 h with h | h <;> simp [h]
      · rcases List.mem_cons.1 h with h | h
        · simp [h]
        · rcases ih h with h | h <;> simp [h]

theorem mem_eraseCell {k : Nat} {l : List (Nat × α)} {c : Nat × α} (h : c ∈ eraseCell k l) : c ∈ l := by
  induction l with
  | nil => simp [eraseCell] at h
  | cons a t ih =>
    simp only [eraseCell] at h
    split at h
    · exact List.mem_cons_of_mem _ (ih h)
    · rcases List.mem_cons.1 h with h | h
      · simp [h]
      · exact List.mem_cons_of_mem _ (ih h)

theorem pairwise_insertCell {k : Nat} {v : α} {l : List (Nat × α)} (h : l.Pairwise (fun a b => a.1 < b.1)) :
    (insertCell k v l).Pairwise (fun a b => a.1 < b.1) := by
  induction l with
  | nil => simp [insertCell]
  | cons a t ih =>
    obtain ⟨ha, ht⟩ := List.pairwise_cons.1 h
    simp only [insertCell]
    split
    · rename_i hk
      refine List.pairwise_cons.2 ⟨fun c hc => ?_, h⟩
      rcases List.mem_cons.1 hc with hc | hc
      · simpa [hc] using hk
      · exact Nat.lt_trans hk (ha c hc)
    · split
      · rename_i hk
        exact List.pairwise_cons.2 ⟨fun c hc => by simpa [hk] using ha c hc, ht⟩
      · rename_i h1 h2
        refine List.pairwise_cons.2 ⟨fun c hc => ?_, ih ht⟩
        rcases mem_insertCell hc with hc | hc
        · simp only [hc]; omega
        · exact ha c hc

theorem pairwise_eraseCell {k : Nat} {l : List (Nat × α)} (h : l.Pairwise (fun a b => a.1 < b.1)) :
    (eraseCell k l).Pairwise (fun a b => a.1 < b.1) := by
  induction l with
  | nil => simp [eraseCell]
  | cons a t ih =>
    obtain ⟨ha, ht⟩ := List.pairwise_cons.1 h
    simp only [eraseCell]
    split
    · exact ih ht
    · exact List.pairwise_cons.2 ⟨fun c hc => ha c (mem_eraseCell hc), ih ht⟩

/-- A memory of which nothing is written is canonical. -/
theorem Memory.wf_unwritten (d : Nat) : (Memory.unwritten d : Memory α).wf :=
  ⟨List.Pairwise.nil, fun _ h => by simp [Memory.unwritten] at h⟩

/-- Writing an element keeps the canonical form. -/
theorem Memory.wf_write [DecidableEq α] {m : Memory α} (h : m.wf) (k : Nat) (v : α) : (m.write k v).wf := by
  unfold Memory.write
  by_cases hf : m.fill = .all v
  · simp only [if_pos hf]
    exact ⟨pairwise_eraseCell h.1, fun c hc => h.2 c (mem_eraseCell hc)⟩
  · simp only [if_neg hf]
    refine ⟨pairwise_insertCell h.1, fun c hc => ?_⟩
    rcases mem_insertCell hc with hc | hc
    · simpa [hc] using hf
    · exact h.2 c hc

/-- Writing a list keeps the canonical form. -/
theorem Memory.wf_writeFrom [DecidableEq α] (vs : List α) :
    ∀ {m : Memory α}, m.wf → ∀ k, (m.writeFrom k vs).wf := by
  induction vs with
  | nil => intro m h k; exact h
  | cons v t ih => intro m h k; exact ih (Memory.wf_write h k v) (k + 1)

/-- An index listed after a write is the written one or was listed before. -/
theorem Memory.mem_write [DecidableEq α] {m : Memory α} {k : Nat} {v : α} {c : Nat × α}
    (h : c ∈ (m.write k v).cells) : c.1 = k ∨ c ∈ m.cells := by
  unfold Memory.write at h
  by_cases hf : m.fill = .all v
  · simp only [if_pos hf] at h; exact .inr (mem_eraseCell h)
  · simp only [if_neg hf] at h
    rcases mem_insertCell h with h | h
    · exact .inl (by rw [h])
    · exact .inr h

/-- An index listed after a list was written lies in the written range or was listed before. -/
theorem Memory.mem_writeFrom [DecidableEq α] {c : Nat × α} (vs : List α) :
    ∀ {m : Memory α} {k : Nat}, c ∈ (m.writeFrom k vs).cells → (k ≤ c.1 ∧ c.1 < k + vs.length) ∨ c ∈ m.cells := by
  induction vs with
  | nil => intro m k h; exact .inr h
  | cons v t ih =>
    intro m k h
    rcases ih h with h | h
    · left; simp only [List.length_cons]; omega
    · rcases Memory.mem_write h with h | h
      · left; simp only [List.length_cons]; omega
      · exact .inr h

/-! ### Elements of the state -/

/-- An element after a memory was replaced. -/
theorem State.elem_setMem (s : State) (id id' : MemId) (m : Memory Byte) (k : Nat) :
    (s.setMem id m).elem id' k = if id' = id then m.read (Config.freeByte id) k else s.elem id' k := by
  unfold State.elem
  by_cases h : id' = id
  · subst h; simp
  · simp [h, State.mem_setMem_ne s h]

/-- An element after one element was written. -/
theorem State.elem_setElem (s : State) (id id' : MemId) (k j : Nat) (v : Byte) :
    (s.setElem id k v).elem id' j = if id' = id ∧ j = k then v else s.elem id' j := by
  unfold State.setElem
  rw [State.elem_setMem]
  by_cases h : id' = id
  · subst h
    by_cases hj : j = k <;> simp [Memory.read_write, hj, State.elem]
  · simp [h]

@[simp] theorem State.length_elems (s : State) (id : MemId) (n : Nat) : (s.elems id n).length = n := by
  simp [State.elems]

theorem State.getD_elems (s : State) (id : MemId) (n k : Nat) (d : Byte) (h : k < n) :
    (s.elems id n).getD k d = s.elem id k := by
  simp [State.elems, h]

end Sys2Proof.Machine
end

