-- ==== Sys2Proof/Laws/Grid.lean ====
section
/-! SUPPORT. The active area: reading a cell after a write or a list of writes, the shape of an area, and that
moving it to GRID's memory and back loses nothing. -/

namespace Sys2Proof.Machine

/-- An area of `dim` rows of `dim` cells. -/
def Board.shape (dim : Nat) (g : Board) : Prop := g.length = dim ∧ ∀ row ∈ g, row.length = dim

theorem Board.shape_empty (dim : Nat) : (Board.empty dim).shape dim := by
  refine ⟨by simp [Board.empty], fun row h => ?_⟩
  obtain ⟨-, rfl⟩ := List.mem_replicate.1 h
  simp

theorem Board.at_empty (dim r c : Nat) : (Board.empty dim).at r c = .unset := by
  simp only [Board.at, Board.empty, List.getD_eq_getElem?_getD, List.getElem?_replicate]
  split
  · simp only [Option.getD_some, List.getElem?_replicate]
    split <;> rfl
  · simp

theorem Board.shape_put {dim : Nat} {g : Board} (h : g.shape dim) (r c : Nat) (v : CellValue) :
    (g.put r c v).shape dim := by
  refine ⟨by simp [Board.put, h.1], fun row hrow => ?_⟩
  obtain ⟨i, hi, rfl⟩ := List.getElem_of_mem hrow
  simp only [Board.put, List.getElem_modify]
  have hi' : i < g.length := by simpa [Board.put] using hi
  split
  · simpa using h.2 _ (List.getElem_mem hi')
  · exact h.2 _ (List.getElem_mem hi')

/-- A cell after one write inside the area. -/
theorem Board.at_put {dim : Nat} {g : Board} (h : g.shape dim) {r c : Nat} (hr : r < dim) (hc : c < dim)
    (v : CellValue) (r' c' : Nat) : (g.put r c v).at r' c' = if r' = r ∧ c' = c then v else g.at r' c' := by
  have hr' : r < g.length := by rw [h.1]; exact hr
  simp only [Board.at, Board.put, List.getD_eq_getElem?_getD, List.getElem?_modify]
  by_cases e : r' = r
  · subst e
    have hrow : (g[r']).length = dim := h.2 _ (List.getElem_mem hr')
    simp only [List.getElem?_eq_getElem hr', Option.getD_some, Option.map_eq_map, Option.map_some, if_true]
    by_cases ec : c' = c
    · subst ec
      simp [hrow, hc]
    · simp [Ne.symm ec, ec]
  · simp [e, Ne.symm e]

/-- Every cell a list of writes names lies inside the area. -/
def paintsInside (dim : Nat) (ps : List Paint) : Prop := ∀ p ∈ ps, p.1.1 < dim ∧ p.1.2 < dim

theorem Board.shape_paint {dim : Nat} (ps : List Paint) : ∀ {g : Board}, g.shape dim → (g.paint ps).shape dim := by
  induction ps with
  | nil => intro g h; exact h
  | cons p t ih => intro g h; exact ih (Board.shape_put h _ _ _)

/-- A cell no write names keeps its value. -/
theorem Board.at_paint_other {dim : Nat} (ps : List Paint) :
    ∀ {g : Board}, g.shape dim → paintsInside dim ps → ∀ {r c : Nat}, (∀ p ∈ ps, p.1 ≠ (r, c)) →
      (g.paint ps).at r c = g.at r c := by
  induction ps with
  | nil => intro g h hp r c hn; rfl
  | cons p t ih =>
    intro g h hp r c hn
    have hin := hp p (by simp)
    have hne : ¬ (r = p.1.1 ∧ c = p.1.2) := fun e => hn p (by simp) (by ext <;> simp [e.1, e.2])
    rw [show g.paint (p :: t) = (g.put p.1.1 p.1.2 p.2).paint t from rfl,
      ih (Board.shape_put h _ _ _) (fun q hq => hp q (by simp [hq])) (fun q hq => hn q (by simp [hq])),
      Board.at_put h hin.1 hin.2, if_neg hne]

/-- A cell that a write names, and every write that names it gives it the same value, holds that value. -/
theorem Board.at_paint_mem {dim : Nat} (ps : List Paint) :
    ∀ {g : Board}, g.shape dim → paintsInside dim ps → ∀ {r c : Nat} {v : CellValue}, ((r, c), v) ∈ ps →
      (∀ p ∈ ps, p.1 = (r, c) → p.2 = v) → (g.paint ps).at r c = v := by
  induction ps with
  | nil => intro g h hp r c v hm; simp at hm
  | cons p t ih =>
    intro g h hp r c v hm hv
    have hin := hp p (by simp)
    rw [show g.paint (p :: t) = (g.put p.1.1 p.1.2 p.2).paint t from rfl]
    by_cases ht : ∃ q ∈ t, q.1 = (r, c)
    · obtain ⟨q, hq, hqe⟩ := ht
      have hqv : q.2 = v := hv q (by simp [hq]) hqe
      refine ih (Board.shape_put h _ _ _) (fun q hq => hp q (by simp [hq])) ?_
        (fun q hq => hv q (by simp [hq]))
      rw [← hqe, ← hqv]; exact hq
    · rw [Board.at_paint_other t (Board.shape_put h _ _ _) (fun q hq => hp q (by simp [hq]))
        (fun q hq e => ht ⟨q, hq, e⟩)]
      rcases List.mem_cons.1 hm with hm | hm
      · subst hm
        rw [Board.at_put h hin.1 hin.2, if_pos ⟨rfl, rfl⟩]
      · exact absurd ⟨_, hm, rfl⟩ ht

/-! ### GRID's memory -/

theorem gridKey_inj {r c r' c' : Nat} (hc : c < 256) (hc' : c' < 256) (h : gridKey r c = gridKey r' c') :
    r = r' ∧ c = c' := by
  unfold gridKey at h; omega

theorem findCell_rowCells (r j : Nat) (hj : j < 256) (row : List CellValue) :
    ∀ c, c + row.length ≤ 256 → findCell (gridKey r j) (rowCells r c row)
      = if c ≤ j then (match row[j - c]? with
          | some v => if v = .unset then none else some v
          | none => none) else none := by
  induction row with
  | nil => intro c hc; simp [rowCells, findCell]
  | cons v t ih =>
    intro c hc
    simp only [List.length_cons] at hc
    have ih' := ih (c + 1) (by omega)
    by_cases e : j = c
    · subst e
      have hlt : ¬ (j + 1 ≤ j) := by omega
      by_cases hv : v = .unset
      · simp [rowCells, hv, ih', hlt]
      · simp [rowCells, hv, findCell]
    · have hk : ¬ gridKey r c = gridKey r j := fun h => e (gridKey_inj (by omega) hj h).2.symm
      have step : findCell (gridKey r j) (rowCells r c (v :: t)) = findCell (gridKey r j) (rowCells r (c + 1) t) := by
        by_cases hv : v = .unset <;> simp [rowCells, hv, findCell, hk]
      rw [step, ih']
      by_cases hle : c ≤ j
      · have h1 : c + 1 ≤ j := by omega
        obtain ⟨n, rfl⟩ : ∃ n, j = c + 1 + n := ⟨j - (c + 1), by omega⟩
        have e2 : c + 1 + n - c = n + 1 := by omega
        simp [h1, hle, e2]
      · have h1 : ¬ c + 1 ≤ j := by omega
        simp [h1, hle]

theorem rowCells_key {r c : Nat} {row : List CellValue} {x : Nat × CellValue} (h : x ∈ rowCells r c row) :
    ∃ j, c ≤ j ∧ j < c + row.length ∧ x.1 = gridKey r j ∧ x.2 ≠ .unset := by
  induction row generalizing c with
  | nil => simp [rowCells] at h
  | cons v t ih =>
    simp only [rowCells] at h
    split at h
    · obtain ⟨j, h1, h2, h3⟩ := ih h
      exact ⟨j, by omega, by simp only [List.length_cons]; omega, h3⟩
    · rcases List.mem_cons.1 h with h | h
      · exact ⟨c, Nat.le_refl _, by simp, by simp [h], by simpa [h] using ‹¬ v = .unset›⟩
      · obtain ⟨j, h1, h2, h3⟩ := ih h
        exact ⟨j, by omega, by simp only [List.length_cons]; omega, h3⟩

theorem boardCells_key {r : Nat} {g : Board} {x : Nat × CellValue} (h : x ∈ boardCells r g) :
    ∃ i j row, r ≤ i ∧ i < r + g.length ∧ row ∈ g ∧ j < row.length ∧ x.1 = gridKey i j ∧ x.2 ≠ .unset := by
  induction g generalizing r with
  | nil => simp [boardCells] at h
  | cons row t ih =>
    simp only [boardCells] at h
    rcases List.mem_append.1 h with h | h
    · obtain ⟨j, _, h2, h3, h4⟩ := rowCells_key h
      exact ⟨r, j, row, Nat.le_refl _, by simp, by simp, by omega, h3, h4⟩
    · obtain ⟨i, j, row', h1, h2, h3, h4, h5, h6⟩ := ih h
      exact ⟨i, j, row', by omega, by simp only [List.length_cons]; omega, by simp [h3], h4, h5, h6⟩

theorem findCell_append (k : Nat) {α : Type} (l l' : List (Nat × α)) :
    findCell k (l ++ l') = (findCell k l).or (findCell k l') := by
  induction l with
  | nil => simp [findCell]
  | cons c t ih => by_cases h : c.1 = k <;> simp [findCell, h, ih]

theorem findCell_eq_none {k : Nat} {α : Type} {l : List (Nat × α)} (h : ∀ c ∈ l, c.1 ≠ k) : findCell k l = none := by
  induction l with
  | nil => rfl
  | cons c t ih =>
    have h1 : c.1 ≠ k := h c (by simp)
    simp [findCell, h1, ih (fun d hd => h d (by simp [hd]))]

theorem findCell_boardCells (i j : Nat) (hj : j < 256) (g : Board) :
    ∀ r, (∀ row ∈ g, row.length ≤ 256) → r ≤ i →
      findCell (gridKey i j) (boardCells r g)
        = if (g.getD (i - r) []).getD j .unset = .unset then none else some ((g.getD (i - r) []).getD j .unset) := by
  induction g with
  | nil => intro r _ _; simp [boardCells, findCell]
  | cons row t ih =>
    intro r hlen hri
    have hrow : row.length ≤ 256 := hlen row (by simp)
    have ht : ∀ x ∈ t, x.length ≤ 256 := fun x hx => hlen x (by simp [hx])
    simp only [boardCells, findCell_append]
    by_cases e : i = r
    · subst e
      have hnone : findCell (gridKey i j) (boardCells (i + 1) t) = none := by
        refine findCell_eq_none (fun c hc hk => ?_)
        obtain ⟨i', j', row', h1, h2, h3, h4, h5, h6⟩ := boardCells_key hc
        have := ht row' h3
        have := (gridKey_inj (by omega) hj (h5.symm.trans hk)).1
        omega
      rw [hnone, findCell_rowCells i j hj row 0 (by omega)]
      rcases hx : row[j]? with _ | v
      · simp [hx]
      · by_cases hv : v = .unset <;> simp [hx, hv]
    · have hnone : findCell (gridKey i j) (rowCells r 0 row) = none := by
        refine findCell_eq_none (fun c hc hk => ?_)
        obtain ⟨j', h1, h2, h3, h4⟩ := rowCells_key hc
        have := (gridKey_inj (by omega) hj (h3.symm.trans hk)).1
        omega
      have e2 : i - r = (i - (r + 1)) + 1 := by omega
      rw [hnone, ih (r + 1) ht (by omega), e2]
      simp

/-- A cell of GRID after the active area was replaced. -/
theorem read_memoryOf {g : Board} (h : ∀ row ∈ g, row.length ≤ 256) {r c : Nat} (hc : c < 256) :
    (memoryOf g).read Config.freeCell (gridKey r c) = g.at r c := by
  unfold Memory.read memoryOf Board.at
  rw [findCell_boardCells r c hc g 0 h (Nat.zero_le _)]
  simp only [Nat.sub_zero, Fill.value]
  by_cases e : (g.getD r []).getD c .unset = .unset
  · rw [if_pos e, e]; rfl
  · rw [if_neg e]; rfl

theorem Board.shape_le {dim : Nat} {g : Board} (h : g.shape dim) (hd : dim ≤ 256) : ∀ row ∈ g, row.length ≤ 256 :=
  fun row hrow => by rw [h.2 row hrow]; exact hd

/-- A cell of the state after its active area was replaced. -/
theorem State.cell_setBoard (s : State) {dim : Nat} {g : Board} (h : g.shape dim) (hd : dim ≤ 256) {r c : Nat}
    (hc : c < 256) : (s.setBoard g).cell r c = g.at r c :=
  read_memoryOf (Board.shape_le h hd) hc

theorem findCell_filter_row (r c : Nat) (hc : c < 256) (l : List (Nat × CellValue)) :
    findCell (gridKey r c) (l.filter (fun x => x.1 / 256 == r)) = findCell (gridKey r c) l := by
  induction l with
  | nil => rfl
  | cons x t ih =>
    have hk : gridKey r c / 256 = r := by unfold gridKey; omega
    by_cases e : x.1 = gridKey r c
    · simp [findCell, e, hk]
    · by_cases hx : x.1 / 256 = r <;> simp [hx, findCell, e, ih]

theorem shape_boardOf (m : Memory CellValue) (dim : Nat) : (boardOf m dim).shape dim := by
  refine ⟨by simp [boardOf], fun row h => ?_⟩
  obtain ⟨r, -, rfl⟩ := List.mem_map.1 h
  simp

/-- The area read from GRID's memory holds what the memory holds. -/
theorem at_boardOf (m : Memory CellValue) {dim : Nat} (hd : dim ≤ 256) {r c : Nat} (hr : r < dim) (hc : c < dim) :
    (boardOf m dim).at r c = m.read Config.freeCell (gridKey r c) := by
  have hc' : c < 256 := by omega
  simp [Board.at, boardOf, hr, hc, Memory.read, gridRow, findCell_filter_row r c hc']

/-- A GRID_VER that R43 gives an area is the version itself. -/
theorem State.version_eq (s : State) (h : s.gridVer.toNat ≤ 40) : s.version = s.gridVer.toNat := if_pos h

theorem State.version_le (s : State) : s.version ≤ 40 := by
  unfold State.version
  have := (Config.areaVersion s.gridVer).isLt
  split <;> omega

theorem State.dim_le (s : State) : s.dim ≤ 177 := by
  have := s.version_le
  unfold State.dim dimOf
  split <;> omega

theorem State.shape_board (s : State) : s.board.shape s.dim := shape_boardOf _ _

/-- The active area of the state holds its cells. -/
theorem State.at_board (s : State) {r c : Nat} (hr : r < s.dim) (hc : c < s.dim) : s.board.at r c = s.cell r c :=
  at_boardOf _ (by have := s.dim_le; omega) hr hc

/-- Two areas of one shape with the same cells are the same area. -/
theorem Board.ext_at {dim : Nat} {g g' : Board} (h : g.shape dim) (h' : g'.shape dim)
    (e : ∀ r c, r < dim → c < dim → g.at r c = g'.at r c) : g = g' := by
  refine List.ext_getElem (by rw [h.1, h'.1]) (fun r hr hr' => ?_)
  have l1 : g[r].length = dim := h.2 _ (List.getElem_mem hr)
  have l2 : g'[r].length = dim := h'.2 _ (List.getElem_mem hr')
  refine List.ext_getElem (by rw [l1, l2]) (fun c hc hc' => ?_)
  have := e r c (by rw [← h.1]; exact hr) (by rw [← l1]; exact hc)
  simpa [Board.at, hr, hr', hc, hc'] using this

/-- Storing an area and reading it back gives it again. -/
theorem boardOf_memoryOf {dim : Nat} (hd : dim ≤ 256) {g : Board} (h : g.shape dim) :
    boardOf (memoryOf g) dim = g :=
  Board.ext_at (shape_boardOf _ _) h (fun r c hr hc => by
    rw [at_boardOf _ hd hr hc, read_memoryOf (Board.shape_le h hd) (by omega)])

theorem pairwise_rowCells (r : Nat) (row : List CellValue) :
    ∀ c, (rowCells r c row).Pairwise (fun a b => a.1 < b.1) := by
  induction row with
  | nil => intro c; simp [rowCells]
  | cons v t ih =>
    intro c
    simp only [rowCells]
    split
    · exact ih (c + 1)
    · refine List.pairwise_cons.2 ⟨fun x hx => ?_, ih (c + 1)⟩
      obtain ⟨j, h1, -, h3, -⟩ := rowCells_key hx
      rw [h3]; unfold gridKey; dsimp only; omega

theorem pairwise_boardCells (g : Board) (h : ∀ row ∈ g, row.length ≤ 256) :
    ∀ r, (boardCells r g).Pairwise (fun a b => a.1 < b.1) := by
  induction g with
  | nil => intro r; simp [boardCells]
  | cons row t ih =>
    intro r
    refine List.pairwise_append.2 ⟨pairwise_rowCells r row 0, ih (fun x hx => h x (by simp [hx])) (r + 1), ?_⟩
    intro a ha b hb
    obtain ⟨j, -, h2, h3, -⟩ := rowCells_key ha
    obtain ⟨i, j', row', h4, -, -, -, h8, -⟩ := boardCells_key hb
    have := h row (by simp)
    rw [h3, h8]; unfold gridKey; omega

/-- GRID's memory holding an area is canonical. -/
theorem wf_memoryOf {g : Board} (h : ∀ row ∈ g, row.length ≤ 256) : (memoryOf g).wf := by
  refine ⟨pairwise_boardCells g h 0, fun c hc => ?_⟩
  obtain ⟨_, _, _, _, _, _, _, _, hne⟩ := boardCells_key hc
  exact fun e => hne (Fill.all.inj e).symm

end Sys2Proof.Machine
end

