-- ==== Sys2Proof/Laws/Ops.lean ====
section
/-! SUPPORT. What each shared operation can do, said once: acceptance, completion, errors, making destinations
unspecified, writing R, the grid commands' frame. The meanings' lemmas cite these. -/

namespace Sys2Proof.Machine

/-! ### The frame relation -/

theorem Dest.unchanged_refl (s : State) (d : Dest) : d.unchanged s s := by
  cases d <;> simp [Dest.unchanged]

theorem Dest.unchanged_trans {s t u : State} {d : Dest} (h : d.unchanged s t) (h' : d.unchanged t u) :
    d.unchanged s u := by
  cases d <;> simp only [Dest.unchanged] at * <;> (try exact h'.trans h) <;>
    first
    | exact ⟨h'.1.trans h.1, fun k => (h'.2 k).trans (h.2 k)⟩
    | exact fun k => (h' k).trans (h k)
    | exact fun r c => (h' r c).trans (h r c)

theorem neverWritten_refl (s : State) : neverWritten s s := by simp [neverWritten]

theorem neverWritten_trans {s t u : State} (h : neverWritten s t) (h' : neverWritten t u) : neverWritten s u := by
  obtain ⟨a1, a2, a3, a4, a5, a6, a7, a8⟩ := h
  obtain ⟨b1, b2, b3, b4, b5, b6, b7, b8⟩ := h'
  exact ⟨b1.trans a1, b2.trans a2, b3.trans a3, b4.trans a4, b5.trans a5, fun k => (b6 k).trans (a6 k), b7.trans a7,
    b8.trans a8⟩

theorem onlyWrites_refl (ds : List Dest) (s : State) : onlyWrites ds s s :=
  ⟨fun d _ => d.unchanged_refl s, neverWritten_refl s⟩

theorem onlyWrites_trans {ds : List Dest} {s t u : State} (h : onlyWrites ds s t) (h' : onlyWrites ds t u) :
    onlyWrites ds s u :=
  ⟨fun d hd => Dest.unchanged_trans (h.1 d hd) (h'.1 d hd), neverWritten_trans h.2 h'.2⟩

theorem onlyWrites_mono {ds ds' : List Dest} {s t : State} (h : onlyWrites ds s t) (hs : ∀ d ∈ ds, d ∈ ds') :
    onlyWrites ds' s t :=
  ⟨fun d hd => h.1 d (fun hm => hd (hs d hm)), h.2⟩

/-- An update of the status and the sequencer alone. -/
theorem onlyWrites_status (ds : List Dest) (s : State) (q : Sequencer) (d e : Bool) (c : ErrorCode) (i : Word) :
    onlyWrites ds s { s with seq := q, done := d, err := e, errCode := c, errInfo := i } := by
  refine ⟨fun x _ => ?_, ?_⟩
  · cases x <;> simp [Dest.unchanged, State.elem, State.mem, State.cell]
  · simp [neverWritten, State.elem, State.mem]

/-! ### Completion and errors -/

theorem State.complete_spec (s : State) :
    ∃ t, s.complete = .next t ∧ succeeded s t ∧ onlyWrites [] s t := by
  refine ⟨_, rfl, ⟨rfl, rfl, rfl, rfl, rfl⟩, ?_⟩
  exact onlyWrites_status [] s .idle true s.err s.errCode s.errInfo

theorem State.raise_spec (s : State) (e : CmdError) :
    ∃ t, s.raise e = .next t ∧ failed s t e.code e.info ∧ onlyWrites [] s t := by
  refine ⟨_, rfl, ⟨rfl, rfl, rfl, rfl, rfl⟩, ?_⟩
  exact onlyWrites_status [] s .idle s.done true e.code e.info

theorem CmdError.code_ne_none (e : CmdError) : e.code ≠ .none := by cases e <;> simp [CmdError.code]

/-! ### Making destinations unspecified -/

theorem State.spoilOne_frame (s : State) (d : Dest) : onlyWrites [d] s (s.spoilOne d) := by
  refine ⟨fun x hx => ?_, ?_⟩
  · have hx' : x ≠ d := by simpa using hx
    cases d <;> cases x <;>
      first
      | exact absurd rfl hx'
      | simp [State.spoilOne, State.setR, Dest.unchanged, State.elem, State.mem, State.cell]
  · cases d <;> simp [State.spoilOne, State.setR, neverWritten, State.elem, State.mem]

theorem State.spoilOne_status (s : State) (d : Dest) :
    (s.spoilOne d).seq = s.seq ∧ (s.spoilOne d).done = s.done ∧ (s.spoilOne d).err = s.err ∧
      (s.spoilOne d).errCode = s.errCode ∧ (s.spoilOne d).errInfo = s.errInfo := by
  cases d <;> exact ⟨rfl, rfl, rfl, rfl, rfl⟩

/-- Making destinations unspecified changes them alone. -/
theorem State.spoil_frame (ds : List Dest) : ∀ s : State, onlyWrites ds s (s.spoil ds) := by
  induction ds with
  | nil => intro s; exact onlyWrites_refl [] s
  | cons d t ih =>
    intro s
    refine onlyWrites_trans (onlyWrites_mono (s.spoilOne_frame d) (by simp)) ?_
    exact onlyWrites_mono (ih (s.spoilOne d)) (fun x hx => List.mem_cons_of_mem d hx)

theorem State.spoil_status (ds : List Dest) : ∀ s : State,
    (s.spoil ds).seq = s.seq ∧ (s.spoil ds).done = s.done ∧ (s.spoil ds).err = s.err ∧
      (s.spoil ds).errCode = s.errCode ∧ (s.spoil ds).errInfo = s.errInfo := by
  induction ds with
  | nil => intro s; exact ⟨rfl, rfl, rfl, rfl, rfl⟩
  | cons d t ih =>
    intro s
    obtain ⟨a1, a2, a3, a4, a5⟩ := ih (s.spoilOne d)
    obtain ⟨b1, b2, b3, b4, b5⟩ := s.spoilOne_status d
    exact ⟨a1.trans b1, a2.trans b2, a3.trans b3, a4.trans b4, a5.trans b5⟩

/-- A failed command whose destinations are unspecified: the error is recorded and nothing else changes. -/
theorem State.failUnspecified_spec (s : State) (i : Instr) (e : CmdError) :
    ∃ t, s.failUnspecified i e = .next t ∧ failed s t e.code e.info ∧ onlyWrites (destsOf i) s t := by
  obtain ⟨t, ht, ⟨h1, h2, h3, h4, h5⟩, hw⟩ := (s.spoil (destsOf i)).raise_spec e
  exact ⟨t, ht, ⟨h1, h2.trans (s.spoil_status _).2.1, h3, h4, h5⟩,
    onlyWrites_trans (s.spoil_frame _) (onlyWrites_mono hw (by simp))⟩

/-! ### Polynomial register R -/

theorem State.setR_frame (s : State) (p : List Byte) : onlyWrites [.regR] s (s.setR p) := by
  refine ⟨fun x hx => ?_, ?_⟩
  · have hx' : x ≠ .regR := by simpa using hx
    cases x <;>
      first
      | exact absurd rfl hx'
      | simp [Dest.unchanged, State.elem, State.mem, State.cell]
  · simp [neverWritten, State.elem, State.mem]

theorem State.setR_length (s : State) {p : List Byte} (h : p.length ≤ 256) : (s.setR p).rLen.val = p.length := by
  simp only [State.setR_rLen, Fin.ofNat]
  omega

/-- Writing R and reading its coefficients back. -/
theorem State.setR_coeffsR (s : State) {p : List Byte} (h : p.length ≤ 256) : (s.setR p).coeffsR = p := by
  have hl := s.setR_length h
  refine List.ext_getElem (by unfold State.coeffsR; rw [State.length_elems]; exact hl) (fun k h1 h2 => ?_)
  simp only [State.coeffsR, State.elems, List.getElem_map, List.getElem_range, State.elem, State.mem,
    State.setR_polyR, Memory.read_writeFrom]
  simp [h2]

/-- POLY_MUL, POLY_MOD and POLY_GEN end by writing R. -/
theorem State.setR_complete (s : State) {p : List Byte} (h : p.length ≤ 256) :
    ∃ t, (s.setR p).complete = .next t ∧ succeeded s t ∧ onlyWrites [.regR] s t ∧ t.rLen.val = p.length ∧
      t.coeffsR = p := by
  obtain ⟨t, ht, ⟨h1, h2, h3, h4, h5⟩, hw⟩ := (s.setR p).complete_spec
  have hu := hw.1 .regR (by simp)
  refine ⟨t, ht, ⟨h1, h2, h3, h4, h5⟩, onlyWrites_trans (s.setR_frame p) (onlyWrites_mono hw (by simp)), ?_, ?_⟩
  · rw [hu.1]; exact s.setR_length h
  · have : t.coeffsR = (s.setR p).coeffsR := by
      unfold State.coeffsR State.elems
      rw [hu.1]
      exact List.map_congr_left (fun k _ => hu.2 k)
    rw [this]; exact s.setR_coeffsR h

/-! ### The grid commands -/

theorem State.setBoard_frame (s : State) (g : Board) : onlyWrites [.grid] s (s.setBoard g) := by
  refine ⟨fun x hx => ?_, ?_⟩
  · have hx' : x ≠ .grid := by simpa using hx
    cases x <;>
      first
      | exact absurd rfl hx'
      | simp [State.setBoard, Dest.unchanged, State.elem, State.mem]
  · simp [State.setBoard, neverWritten, State.elem, State.mem]

/-- A grid command that completes changes the cells of the active area as its pattern says, and nothing else. -/
theorem State.withGrid_spec (s : State) (i : Instr) (f : Board → Board) (hv : s.gridVer ≠ 0)
    (hf : (f s.board).shape s.dim) :
    ∃ t, s.withGrid i f = .next t ∧ succeeded s t ∧ onlyWrites [.grid] s t ∧ t.dim = s.dim ∧
      ∀ r c, c < 256 → t.cell r c = (f s.board).at r c := by
  obtain ⟨t, ht, ⟨h1, h2, h3, h4, h5⟩, hw⟩ := (s.setBoard (f s.board)).complete_spec
  refine ⟨t, by rw [State.withGrid, if_neg hv]; exact ht, ⟨h1, h2, h3, h4, h5⟩,
    onlyWrites_trans (s.setBoard_frame _) (onlyWrites_mono hw (by simp)), ?_, fun r c hc => ?_⟩
  · have := hw.1 .gridVer (by simp)
    simp only [Dest.unchanged] at this
    simp [State.dim, State.version, this]
  · rw [hw.1 .grid (by simp) r c]
    exact s.cell_setBoard hf (by have := s.dim_le; omega) hc

/-- Without a grid a grid command ends with RANGE_ERROR(0) and its destinations are unspecified (43_placer.md R220,
60_exceptions.md R307). -/
theorem State.withGrid_none (s : State) (i : Instr) (f : Board → Board) (hv : s.gridVer = 0) :
    s.withGrid i f = s.failUnspecified i (.rangeVersion 0) := if_pos hv

/-! ### The memories stay canonical -/

theorem Memory.sound_unwritten (size d : Nat) : (Memory.unwritten d : Memory Byte).sound size :=
  ⟨Memory.wf_unwritten d, fun c h => by simp [Memory.unwritten] at h⟩

theorem Memory.sound_write {size : Nat} {m : Memory Byte} (h : m.sound size) {k : Nat} (hk : k < size) (v : Byte) :
    (m.write k v).sound size :=
  ⟨Memory.wf_write h.1 k v, fun c hc => (Memory.mem_write hc).elim (fun e => by rw [e]; exact hk) (h.2 c)⟩

theorem Memory.sound_writeFrom {size : Nat} {m : Memory Byte} (h : m.sound size) {k : Nat} {vs : List Byte}
    (hk : k + vs.length ≤ size) : (m.writeFrom k vs).sound size :=
  ⟨Memory.wf_writeFrom vs h.1 k, fun c hc => (Memory.mem_writeFrom vs hc).elim (fun e => by omega) (h.2 c)⟩

theorem Memory.gridSound_unwritten (d : Nat) : (Memory.unwritten d : Memory CellValue).gridSound :=
  ⟨Memory.wf_unwritten d, fun c h => by simp [Memory.unwritten] at h⟩

theorem Memory.gridSound_write {m : Memory CellValue} (h : m.gridSound) {r c : Nat} (hr : r < 177) (hc : c < 177)
    (v : CellValue) : (m.write (gridKey r c) v).gridSound := by
  refine ⟨Memory.wf_write h.1 _ v, fun x hx => ?_⟩
  rcases Memory.mem_write hx with e | e
  · rw [e]; unfold gridKey Config.dimMax; omega
  · exact h.2 x e

/-- A stored area is canonical and lies inside the grid. -/
theorem gridSound_memoryOf {dim : Nat} {g : Board} (h : g.shape dim) (hd : dim ≤ 177) : (memoryOf g).gridSound := by
  refine ⟨wf_memoryOf (Board.shape_le h (by omega)), fun x hx => ?_⟩
  obtain ⟨i, j, row, h1, h2, hrow, h3, h4, -⟩ := boardCells_key hx
  have e : row.length = dim := h.2 row hrow
  have e' := h.1
  rw [h4]; unfold gridKey Config.dimMax; omega

/-- Every memory is canonical after reset. -/
theorem memoriesSound_reset : State.reset.memoriesSound :=
  ⟨Memory.sound_unwritten _ 0, Memory.sound_unwritten _ 0, Memory.sound_unwritten _ 0, Memory.sound_unwritten _ 0,
    Memory.sound_unwritten _ 0, Memory.gridSound_unwritten 0⟩

/-- Making a destination unspecified keeps every memory canonical. -/
theorem State.memoriesSound_spoilOne {s : State} (h : s.memoriesSound) (d : Dest) : (s.spoilOne d).memoriesSound := by
  obtain ⟨h1, h2, h3, h4, h5, h6⟩ := h
  cases d <;>
    first
    | exact ⟨h1, h2, h3, h4, h5, h6⟩
    | exact ⟨Memory.sound_unwritten _ _, h2, h3, h4, h5, h6⟩
    | exact ⟨h1, Memory.sound_unwritten _ _, h3, h4, h5, h6⟩
    | exact ⟨h1, h2, h3, h4, Memory.sound_unwritten _ _, h6⟩
    | exact ⟨h1, h2, h3, h4, h5, Memory.gridSound_unwritten _⟩
    | refine ⟨h1, h2, Memory.sound_writeFrom (Memory.sound_unwritten _ _) ?_, h4, h5, h6⟩
      simp [Config.pMax]

end Sys2Proof.Machine
end

