-- ==== Sys2Proof/Laws/PerInstr.lean ====
section
/-! SUPPORT. One lemma per constructor: the word of a command lies in its row of spec/opcode_table.json. -/

namespace Sys2Proof.Laws.TableRow

/-- The mask and the match of a command's row (spec/opcode_table.json). -/
def row : Instr → Word × Word
  | .nop => (0xFFFFFFFF, 0x00000000)
  | .gfExp _ => (0x0000FFFF, 0x00000001)
  | .gfLog _ => (0xFF00FFFF, 0x00000002)
  | .gfMul _ _ => (0x0000FFFF, 0x00000003)
  | .polyMul => (0xFFFFFFFF, 0x00000010)
  | .polyMod => (0xFFFFFFFF, 0x00000011)
  | .polyGen _ => (0xFF00FFFF, 0x00000012)
  | .polyMoveRA => (0xFFFFFFFF, 0x00000013)
  | .polyMoveRB => (0xFFFFFFFF, 0x00000014)
  | .rsEncode => (0xFFFFFFFF, 0x00000020)
  | .gridClear => (0xFFFFFFFF, 0x00000030)
  | .placeFinder => (0xFFFFFFFF, 0x00000031)
  | .placeAlign => (0xFFFFFFFF, 0x00000032)
  | .placeTiming => (0xFFFFFFFF, 0x00000033)
  | .placeFormat => (0xFFFFFFFF, 0x00000034)
  | .placeVersion => (0xFFFFFFFF, 0x00000035)
  | .mapData => (0xFFFFFFFF, 0x00000036)
  | .score => (0xFFFFFFFF, 0x00000037)
  | .build => (0xFFFFFFFF, 0x00000038)
  | .autobuild => (0xFFFFFFFF, 0x00000039)

/-- The word of the command has the row's fixed bits, its opcode is the row's, and its reserved bits are 0. -/
abbrev Statement (i : Instr) : Prop := encode i &&& (row i).1 = (row i).2

theorem nop : Statement .nop := by decide

theorem gfExp (n : Int) : Statement (.gfExp n) := by
  simp only [Statement, row, encode, encodeI16]
  ext j hj
  simp only [BitVec.getElem_and, BitVec.getElem_append]
  interval_cases j <;> simp

theorem gfLog (a : Byte) : Statement (.gfLog a) := by
  simp only [Statement, row, encode, encodeB]
  ext j hj
  simp only [BitVec.getElem_and, BitVec.getElem_append]
  interval_cases j <;> simp

theorem gfMul (a b : Byte) : Statement (.gfMul a b) := by
  simp only [Statement, row, encode, encodeB]
  ext j hj
  simp only [BitVec.getElem_and, BitVec.getElem_append]
  interval_cases j <;> simp

theorem polyMul : Statement .polyMul := by decide

theorem polyMod : Statement .polyMod := by decide

theorem polyGen (k : Byte) : Statement (.polyGen k) := by
  simp only [Statement, row, encode, encodeB]
  ext j hj
  simp only [BitVec.getElem_and, BitVec.getElem_append]
  interval_cases j <;> simp

theorem polyMoveRA : Statement .polyMoveRA := by decide

theorem polyMoveRB : Statement .polyMoveRB := by decide

theorem rsEncode : Statement .rsEncode := by decide

theorem gridClear : Statement .gridClear := by decide

theorem placeFinder : Statement .placeFinder := by decide

theorem placeAlign : Statement .placeAlign := by decide

theorem placeTiming : Statement .placeTiming := by decide

theorem placeFormat : Statement .placeFormat := by decide

theorem placeVersion : Statement .placeVersion := by decide

theorem mapData : Statement .mapData := by decide

theorem score : Statement .score := by decide

theorem build : Statement .build := by decide

theorem autobuild : Statement .autobuild := by decide

end Sys2Proof.Laws.TableRow
end

