-- ==== Sys2Proof/Laws/Placer.lean ====
section
/-! SUPPORT. The patterns keep the shape of the area, and the cells they name lie inside it. -/

namespace Sys2Proof.Machine

/- One theorem at a time: several of the kernel evaluations below, run beside each other, need more
memory than a check has. -/
set_option Elab.async false

/-- The active area has the side of its version. -/
theorem State.dim_eq (s : State) (h : s.gridVer ≠ 0) : s.dim = dimOf s.version := if_neg h

theorem State.version_pos (s : State) (h : s.gridVer ≠ 0) : 1 ≤ s.version := by
  unfold State.version
  split
  · have : s.gridVer.toNat ≠ 0 := fun e => h (BitVec.eq_of_toNat_eq e)
    omega
  · omega

/-! ### Shapes -/

theorem shape_placeFinders {dim d : Nat} {g : Board} (h : g.shape d) : (placeFinders dim g).shape d :=
  Board.shape_paint _ h

theorem shape_placeAlignment {d : Nat} {g : Board} (h : g.shape d) (p : Nat × Nat) : (placeAlignment g p).shape d := by
  unfold placeAlignment
  split
  · exact Board.shape_paint _ h
  · exact h

theorem shape_placeAlignments {v d : Nat} {g : Board} (h : g.shape d) : (placeAlignments v g).shape d := by
  unfold placeAlignments
  generalize alignCentres v = l
  induction l generalizing g with
  | nil => exact h
  | cons p t ih => exact ih (shape_placeAlignment h p)

theorem shape_placeTimingCell {d : Nat} {g : Board} (h : g.shape d) (r c k : Nat) : (placeTimingCell g r c k).shape d := by
  unfold placeTimingCell
  split
  · exact Board.shape_put h _ _ _
  · exact h

theorem shape_placeTimings {dim d : Nat} {g : Board} (h : g.shape d) : (placeTimings dim g).shape d := by
  have key : ∀ (f : Nat → Nat × Nat × Nat) (l : List Nat) (g : Board), g.shape d →
      (l.foldl (fun g i => placeTimingCell g (f i).1 (f i).2.1 (f i).2.2) g).shape d := by
    intro f l
    induction l with
    | nil => intro g hg; exact hg
    | cons i t ih => intro g hg; exact ih _ (shape_placeTimingCell hg _ _ _)
  exact key (fun c => (6, c, c)) _ _ (key (fun r => (r, 6, r)) _ _ h)

theorem shape_placeFormats {dim e m d : Nat} {t : Bool} {g : Board} (h : g.shape d) : (placeFormats dim e m t g).shape d :=
  Board.shape_paint _ h

theorem shape_placeVersions {v d : Nat} {t : Bool} {g : Board} (h : g.shape d) : (placeVersions v t g).shape d := by
  unfold placeVersions
  split
  · exact h
  · exact Board.shape_paint _ h

/-- The structural patterns on a fresh grid keep its shape (43_placer.md R243). -/
theorem shape_structuralBoard (v e m : Nat) (t : Bool) : (structuralBoard v e m t).shape (dimOf v) :=
  shape_placeVersions (shape_placeFormats (shape_placeTimings (shape_placeAlignments (shape_placeFinders
    (Board.shape_empty _)))))

theorem shape_mapCodewords {dim mask d : Nat} {cws : List Byte} {g : Board} (h : g.shape d) :
    (mapCodewords dim mask cws g).shape d :=
  Board.shape_paint _ h

theorem shape_buildBoard (v e m : Nat) (t : Bool) (cws : List Byte) : (buildBoard v e m t cws).shape (dimOf v) :=
  shape_mapCodewords (shape_structuralBoard v e m t)

/-! ### Cells inside the area -/

theorem paintsInside_finder (dim : Nat) (R C : Int) : paintsInside dim (finderPaints dim R C) := by
  intro p hp
  simp only [finderPaints, List.mem_flatMap, List.mem_filterMap] at hp
  obtain ⟨r, -, c, -, h⟩ := hp
  split at h
  · cases h; dsimp only; omega
  · cases h

theorem paintsInside_format {dim e m : Nat} {t : Bool} (h : 21 ≤ dim) : paintsInside dim (formatPaints dim e m t) := by
  intro p hp
  simp only [formatPaints, List.mem_append, List.mem_map, List.mem_range, List.mem_singleton] at hp
  rcases hp with (⟨i, hi, rfl⟩ | ⟨i, hi, rfl⟩) | rfl
  · simp only [formatVertical]; split_ifs <;> dsimp only <;> omega
  · simp only [formatHorizontal]; split_ifs <;> dsimp only <;> omega
  · dsimp only; omega

theorem paintsInside_version {v : Nat} {t : Bool} (h : 1 ≤ v) : paintsInside (dimOf v) (versionPaints v t) := by
  intro p hp
  simp only [versionPaints, List.mem_append, List.mem_map, List.mem_range, dimOf] at hp ⊢
  rcases hp with ⟨i, hi, rfl⟩ | ⟨i, hi, rfl⟩ <;> dsimp only <;> omega

/-- Every alignment centre lies in 6..dim-7 on both axes (43_placer.md R225, R226). -/
theorem alignCentres_inside : ∀ v ≤ 40, ∀ p ∈ alignCentres v, 6 ≤ p.1 ∧ p.1 + 7 ≤ dimOf v ∧ 6 ≤ p.2 ∧ p.2 + 7 ≤ dimOf v := by
  have h : ∀ v ≤ 40, ∀ k ∈ alignPositions v, 6 ≤ k ∧ k + 7 ≤ dimOf v := by decide +kernel
  intro v hv p hp
  simp only [alignCentres, List.mem_flatMap, List.mem_map] at hp
  obtain ⟨r, hr, c, hc, rfl⟩ := hp
  exact ⟨(h v hv r hr).1, (h v hv r hr).2, (h v hv c hc).1, (h v hv c hc).2⟩

theorem paintsInside_align {v : Nat} (hv : v ≤ 40) {p : Nat × Nat} (hp : p ∈ alignCentres v) :
    paintsInside (dimOf v) (alignPaints p.1 p.2) := by
  obtain ⟨h1, h2, h3, h4⟩ := alignCentres_inside v hv p hp
  intro q hq
  simp only [alignPaints, List.mem_flatMap, List.mem_map, List.mem_range] at hq
  obtain ⟨i, hi, j, hj, rfl⟩ := hq
  dsimp only; omega

/-! ### Counting unset cells -/

/-- No cell is unset exactly when the count is 0. -/
theorem Board.unsetCount_eq_zero {dim : Nat} {g : Board} (h : g.shape dim) :
    g.unsetCount = 0 ↔ ∀ r c, r < dim → c < dim → g.at r c ≠ .unset := by
  have e : g.unsetCount = 0 ↔ ∀ row ∈ g, ∀ v ∈ row, v ≠ .unset := by
    unfold Board.unsetCount
    rw [List.sum_eq_zero_iff]
    simp only [List.mem_map, forall_exists_index, and_imp, forall_apply_eq_imp_iff₂, List.count_eq_zero]
    exact ⟨fun H row hr v hv e => H row hr (e ▸ hv), fun H row hr hv => H row hr _ hv rfl⟩
  rw [e]
  constructor
  · intro H r c hr hc
    have hr' : r < g.length := by rw [h.1]; exact hr
    have hl : (g[r]).length = dim := h.2 _ (List.getElem_mem hr')
    have hc' : c < (g[r]).length := by rw [hl]; exact hc
    have := H _ (List.getElem_mem hr') _ (List.getElem_mem hc')
    simpa [Board.at, hr', hc'] using this
  · intro H row hrow v hv
    obtain ⟨r, hr, rfl⟩ := List.getElem_of_mem hrow
    obtain ⟨c, hc, rfl⟩ := List.getElem_of_mem hv
    have hl : (g[r]).length = dim := h.2 _ (List.getElem_mem hr)
    have := H r c (by rw [← h.1]; exact hr) (by rw [← hl]; exact hc)
    simpa [Board.at, hr, hc] using this

/-- Areas of one shape with the same unset cells have the same count. -/
theorem Board.unsetCount_congr {dim : Nat} {g g' : Board} (h : g.shape dim) (h' : g'.shape dim)
    (e : ∀ r c, r < dim → c < dim → (g.at r c = .unset ↔ g'.at r c = .unset)) : g.unsetCount = g'.unsetCount := by
  unfold Board.unsetCount
  congr 1
  refine List.ext_getElem (by simp [h.1, h'.1]) (fun r h1 h2 => ?_)
  simp only [List.getElem_map]
  have hr : r < g.length := by simpa using h1
  have hr' : r < g'.length := by simpa using h2
  have l1 : (g[r]).length = dim := h.2 _ (List.getElem_mem hr)
  have l2 : (g'[r]).length = dim := h'.2 _ (List.getElem_mem hr')
  have key : (g[r]).map (fun v => decide (v = .unset)) = (g'[r]).map (fun v => decide (v = .unset)) := by
    refine List.ext_getElem (by simp [l1, l2]) (fun c hc hc' => ?_)
    have k1 : c < (g[r]).length := by simpa using hc
    have k2 : c < (g'[r]).length := by simpa using hc'
    have := e r c (by rw [← h.1]; exact hr) (by rw [← l1]; exact k1)
    simp only [Board.at, List.getD_eq_getElem?_getD, List.getElem?_eq_getElem hr, List.getElem?_eq_getElem hr',
      Option.getD_some, List.getElem?_eq_getElem k1, List.getElem?_eq_getElem k2] at this
    simpa using this
  have cnt : ∀ l : List CellValue, l.count .unset = (l.map (fun v => decide (v = .unset))).count true := by
    intro l
    induction l with
    | nil => rfl
    | cons v t ih => cases v <;> simp [ih]
  rw [cnt, cnt, key]

end Sys2Proof.Machine
end

