-- ==== Sys2Proof/Laws/Poly.lean ====
section
/-! SUPPORT. Lists of coefficients: the length and the coefficients of sums and products, canonical forms, the
remainder's length, the generator's length and leading coefficient. -/

namespace Sys2Proof.Machine

/- One theorem at a time: several of the kernel evaluations below, run beside each other, need more
memory than a check has. -/
set_option Elab.async false

/-! ### Canonical forms -/

theorem canon_of_head {x : Byte} {p : List Byte} (h : x ≠ 0) : canon (x :: p) = x :: p := by
  rw [canon, List.dropWhile_cons_of_neg (by simpa using h)]

theorem canon_nil : canon [] = [] := rfl

theorem canon_zero_cons (p : List Byte) : canon (0 :: p) = canon p := by simp [canon]

/-- A canonical form does not begin with 0. -/
theorem head_canon (p : List Byte) : (canon p).head? ≠ some 0 := by
  induction p with
  | nil => simp [canon]
  | cons x t ih =>
    by_cases h : x = 0
    · rw [h, canon_zero_cons]; exact ih
    · rw [canon_of_head h]; simpa using h

theorem canon_of_head? {p : List Byte} (h : p.head? ≠ some 0) : canon p = p := by
  cases p with
  | nil => rfl
  | cons x t => exact canon_of_head (by simpa using h)

/-- A list is its leading zeros followed by its canonical form (41_poly.md R160). -/
theorem canon_split (p : List Byte) : ∃ z, p = List.replicate z 0 ++ canon p := by
  induction p with
  | nil => exact ⟨0, rfl⟩
  | cons x t ih =>
    by_cases h : x = 0
    · obtain ⟨z, hz⟩ := ih
      refine ⟨z + 1, ?_⟩
      rw [h, canon_zero_cons, List.replicate_succ, List.cons_append, ← hz]
    · exact ⟨0, by rw [canon_of_head h]; rfl⟩

theorem length_canon_le (p : List Byte) : (canon p).length ≤ p.length := by
  obtain ⟨z, hz⟩ := canon_split p
  have := congrArg List.length hz
  simp only [List.length_append, List.length_replicate] at this
  omega

theorem State.length_operandA (s : State) : s.operandA.length ≤ s.aLen.toNat := by
  refine (length_canon_le _).trans ?_
  simp [State.elems]

theorem State.length_operandB (s : State) : s.operandB.length ≤ s.bLen.toNat := by
  refine (length_canon_le _).trans ?_
  simp [State.elems]

/-! ### Sums aligned at the first element -/

@[simp] theorem xorFront_nil_left (q : List Byte) : xorFront [] q = q := by cases q <;> rfl

@[simp] theorem xorFront_nil_right (p : List Byte) : xorFront p [] = p := by cases p <;> rfl

theorem length_xorFront (p : List Byte) : ∀ q, (xorFront p q).length = max p.length q.length := by
  induction p with
  | nil => intro q; simp
  | cons x t ih =>
    intro q
    cases q with
    | nil => simp
    | cons y u => simp only [xorFront, List.length_cons, ih]; omega

theorem getD_xorFront (p : List Byte) : ∀ q k, (xorFront p q).getD k 0 = p.getD k 0 ^^^ q.getD k 0 := by
  induction p with
  | nil => intro q k; simp
  | cons x t ih =>
    intro q k
    cases q with
    | nil => simp
    | cons y u =>
      cases k with
      | zero => simp [xorFront]
      | succ k => simpa [xorFront] using ih u k

/-! ### Products -/

/-- A product of two polynomials that are not empty has len(a) + len(b) - 1 coefficients (41_poly.md R163). -/
theorem length_polyProduct {b : List Byte} (hb : b ≠ []) : ∀ {a : List Byte}, a ≠ [] →
    (polyProduct a b).length = a.length + b.length - 1 := by
  have hb' := List.length_pos_iff.2 hb
  intro a
  induction a with
  | nil => intro h; exact absurd rfl h
  | cons x t ih =>
    intro _
    simp only [polyProduct, length_xorFront, List.length_map, List.length_cons]
    by_cases ht : t = []
    · subst ht; simp only [polyProduct, List.length_nil]; omega
    · rw [ih ht]
      have := List.length_pos_iff.2 ht
      omega

theorem getD_map_gterm (x : Byte) (b : List Byte) (k : Nat) : (b.map (gterm x)).getD k 0 = fieldProduct x (b.getD k 0) := by
  simp only [List.getD_eq_getElem?_getD, List.getElem?_map]
  cases b[k]? with
  | none => exact (fieldProduct_zero_right x).symm
  | some y => simp [gterm_eq]

/-- The first coefficient of a product is the product of the first coefficients. -/
theorem polyProduct_head (a b : List Byte) : (polyProduct a b).getD 0 0 = fieldProduct (a.getD 0 0) (b.getD 0 0) := by
  cases a with
  | nil => exact (fieldProduct_zero_left _).symm
  | cons x t =>
    simp only [polyProduct, getD_xorFront, getD_map_gterm]
    simp

/-! ### The remainder -/

/-- The leading term cancels: one step of the division shortens the dividend (41_poly.md R165). -/
theorem length_pmodStep {x y : Byte} {a b : List Byte} (hx : x ≠ 0) (hy : y ≠ 0) (hl : b.length ≤ a.length) :
    (pmodStep (x :: a) (y :: b)).length ≤ a.length := by
  obtain ⟨l, -, h2, h3⟩ := glog_spec hx
  obtain ⟨m, -, h5, h6⟩ := glog_spec hy
  have e : x ^^^ gexp (logNonzero y + (logNonzero x - logNonzero y)) = 0 := by
    have e1 : logNonzero y + (logNonzero x - logNonzero y) = (l : Int) := by
      simp [logNonzero, h2, h5]
    rw [e1, h3, BitVec.xor_self]; rfl
  have e' : pmodStep (x :: a) (y :: b) = canon (0 :: xorFront a
      (b.map (fun z => gexp (logNonzero z + (logNonzero x - logNonzero y))))) := by
    simp only [pmodStep, List.headD_cons, List.map_cons, xorFront, e]
  rw [e', canon_zero_cons]
  refine (length_canon_le _).trans ?_
  rw [length_xorFront, List.length_map]
  omega

/-- The remainder is canonical when the dividend is. -/
theorem head_pmodLoop (b : List Byte) : ∀ (fuel : Nat) (a : List Byte), a.head? ≠ some 0 →
    (pmodLoop fuel a b).head? ≠ some 0 := by
  intro fuel
  induction fuel with
  | zero => intro a h; exact h
  | succ n ih =>
    intro a h
    simp only [pmodLoop]
    split
    · exact h
    · exact ih _ (head_canon _)

/-- The remainder is shorter than a divisor that has no leading zero (41_poly.md R165, R166). -/
theorem length_pmodLoop {b : List Byte} (hb : b.head? ≠ some 0) (hb' : b ≠ []) : ∀ (fuel : Nat) (a : List Byte),
    a.head? ≠ some 0 → a.length ≤ fuel → (pmodLoop fuel a b).length < b.length := by
  have hpos := List.length_pos_iff.2 hb'
  intro fuel
  induction fuel with
  | zero => intro a _ hl; simp only [pmodLoop]; omega
  | succ n ih =>
    intro a ha hl
    simp only [pmodLoop]
    split
    · assumption
    · rename_i h
      refine ih _ (head_canon _) ?_
      cases a with
      | nil => exact absurd hpos h
      | cons x t =>
        cases b with
        | nil => exact absurd rfl hb'
        | cons y u =>
          simp only [List.length_cons] at h hl
          exact (length_pmodStep (by simpa using ha) (by simpa using hb) (by omega)).trans (by omega)

theorem length_pmod {a b : List Byte} (ha : a.head? ≠ some 0) (hb : b.head? ≠ some 0) (hb' : b ≠ []) :
    (pmod a b).length < b.length :=
  length_pmodLoop hb hb' _ a ha (Nat.le_refl _)

/-- A dividend shorter than the divisor is its own remainder (41_poly.md R166). -/
theorem pmod_of_short {a b : List Byte} (h : a.length < b.length) : pmod a b = a := by
  unfold pmod
  cases hl : a.length with
  | zero => rfl
  | succ n => simp only [pmodLoop]; rw [if_pos h]

/-! ### The generator -/

theorem genpoly_zero : genpoly 0 = [1] := rfl

theorem genpoly_succ (k : Nat) : genpoly (k + 1) = polyProduct (genpoly k) [1, gexp k] := by
  simp [genpoly, List.range_succ]

/-- genpoly(k) has k + 1 coefficients, the first of them 1 (41_poly.md R169). -/
theorem genpoly_spec (k : Nat) : (genpoly k).length = k + 1 ∧ (genpoly k).getD 0 0 = 1 := by
  induction k with
  | zero => exact ⟨rfl, rfl⟩
  | succ k ih =>
    have hne : genpoly k ≠ [] := fun e => by simp [e] at ih
    rw [genpoly_succ]
    refine ⟨?_, ?_⟩
    · rw [length_polyProduct (by simp) hne, ih.1]; simp
    · rw [polyProduct_head, ih.2, fieldProduct_one_left]; rfl

/-- genpoly(k), genpoly(k + 1), … from `g` = genpoly(k) on, each checked for zero coefficients. -/
def noZeroFrom : Nat → Nat → List Byte → Bool
  | 0, _, _ => true
  | n + 1, k, g => g.all (· != 0) && noZeroFrom n (k + 1) (polyProduct g [1, gexp k])

theorem noZeroFrom_spec : ∀ n k j, noZeroFrom n k (genpoly k) = true → k ≤ j → j < k + n → 0 ∉ genpoly j := by
  intro n
  induction n with
  | zero => intro k j _ h1 h2; omega
  | succ n ih =>
    intro k j h h1 h2
    simp only [noZeroFrom, Bool.and_eq_true, ← genpoly_succ] at h
    rcases Nat.eq_or_lt_of_le h1 with e | e
    · subst e
      intro h0
      simpa using List.all_eq_true.1 h.1 _ h0
    · exact ih (k + 1) j h.2 e (by omega)

/-- The generators of the block table have no zero coefficient (41_poly.md R170, 42_rs.md R200). -/
theorem genpoly_no_zero (k : Nat) (h : k ≤ 30) : 0 ∉ genpoly k :=
  noZeroFrom_spec 31 0 k (by decide +kernel) (Nat.zero_le k) (by omega)

end Sys2Proof.Machine
end

