-- ==== Sys2Proof/Laws/Rs.lean ====
section
/-! SUPPORT. The block table's checks (42_rs.md R191, R192) and the lengths of parity and blocks. -/

namespace Sys2Proof.Machine

/- One theorem at a time: several of the kernel evaluations below, run beside each other, need more
memory than a check has. -/
set_option Elab.async false

/-- The four levels. -/
def allLevels : List Level := [.L, .M, .Q, .H]

/-- What the checks of R192 say of one block list: at least one block, every parity count in 1..30 and the same,
every dividend within P_MAX, and the totals within CW_MAX. -/
def blocksSound (bs : List RsBlock) : Bool :=
  !bs.isEmpty && bs.all (fun b => decide (b.data < b.total) && decide (b.ec ≤ 30) && decide (b.total ≤ 153)
    && decide (b.ec = (bs.headD ⟨0, 0⟩).ec)) && decide ((bs.map RsBlock.total).sum ≤ 3706) && decide (capacityOf bs ≤ 2956)
    && decide (bs.length ≤ 81)

/-- Every entry of RS_BLOCK_TABLE passes the checks. -/
theorem rsBlocks_sound : ∀ v < 40, ∀ l ∈ allLevels, (rsBlocks (v + 1) l).any blocksSound = true := by decide +kernel

/-- The entry of a legal version exists and is sound. -/
theorem rsBlocks_spec {v : Nat} (h1 : 1 ≤ v) (h2 : v ≤ 40) (l : Level) : ∃ bs, rsBlocks v l = some bs ∧ blocksSound bs = true := by
  have hl : l ∈ allLevels := by cases l <;> simp [allLevels]
  have := rsBlocks_sound (v - 1) (by omega) l hl
  rw [show v - 1 + 1 = v by omega] at this
  cases e : rsBlocks v l with
  | none => rw [e] at this; exact absurd this (by simp)
  | some bs => rw [e] at this; exact ⟨bs, rfl, this⟩

theorem rsBlocks_zero (l : Level) : rsBlocks 0 l = none := rfl

/-- Outside 1..40 the table has no entry (R193). -/
theorem rsBlocks_none {v : Nat} (h : v = 0 ∨ 40 < v) (l : Level) : rsBlocks v l = none := by
  rcases h with rfl | h
  · rfl
  · have hlen : rsBlockTable.length = 40 := by decide +kernel
    have h0 : v ≠ 0 := by omega
    have e : rsBlockTable[v - 1]? = none := List.getElem?_eq_none (by omega)
    rw [rsBlocks, if_neg h0, e]

/-- The parity of a block has ec codewords (42_rs.md R202). -/
theorem length_rsParity (d : List Byte) (ec : Nat) : (rsParity d ec).length = ec := by
  have hg := genpoly_spec ec
  have hne : genpoly ec ≠ [] := fun e => by simp [e] at hg
  have hh : (genpoly ec).head? ≠ some 0 := by
    cases e : genpoly ec with
    | nil => exact absurd e hne
    | cons x t =>
      rw [e] at hg
      have hx : x = 1 := by simpa using hg.2
      rw [hx]; simp
  have hl : (pmod (rsDividend d ec) (genpoly ec)).length < (genpoly ec).length := length_pmod (head_canon _) hh hne
  simp only [rsParity, List.leftpad, List.length_append, List.length_replicate]
  omega

theorem length_splitBlocks (bs : List RsBlock) : ∀ d, (splitBlocks bs d).length = bs.length := by
  induction bs with
  | nil => intro d; rfl
  | cons b t ih => intro d; simp [splitBlocks, ih]

end Sys2Proof.Machine
end

