-- ==== Sys2Proof/Laws/Step.lean ====
section
/-! SUPPORT. Everything a step can do: run the pending command, let one host action land, or stay. -/

namespace Sys2Proof.Machine

theorem step_idle {s : State} (h : s.seq = .idle) : step s = .next s.land := by
  unfold step; rw [h]

/-- The completion of the pending command. -/
theorem step_completes {s : State} {w : Word} {n : Nat} (h : s.seq = .busy w n) (hc : completesNow n s.host = true) :
    step s = s.runWord w := by
  unfold step; rw [h]; exact if_pos hc

/-- A host action that lands before the completion. -/
theorem step_lands {s : State} {w : Word} {n : Nat} (h : s.seq = .busy w n) (hc : completesNow n s.host = false) :
    step s = .next s.land := by
  unfold step; rw [h]; exact if_neg (by simp [hc])

/-- The three things a step can do. -/
theorem step_cases (s : State) :
    (s.seq = .idle ∧ step s = .next s.land) ∨
    (∃ w n, s.seq = .busy w n ∧ completesNow n s.host = true ∧ step s = s.runWord w) ∨
    (∃ w n, s.seq = .busy w n ∧ completesNow n s.host = false ∧ step s = .next s.land) := by
  cases h : s.seq with
  | idle => exact .inl ⟨rfl, step_idle h⟩
  | busy w n =>
    cases hc : completesNow n s.host with
    | true => exact .inr (.inl ⟨w, n, rfl, hc, step_completes h hc⟩)
    | false => exact .inr (.inr ⟨w, n, rfl, hc, step_lands h hc⟩)

theorem State.land_nil {s : State} (h : s.host = []) : s.land = s := by
  unfold State.land; rw [h]

theorem State.land_cons {s : State} {a : HostAction} {rest : List HostAction} (h : s.host = a :: rest) :
    s.land = { s with seq := s.seq.afterLanding, host := rest }.serve a := by
  unfold State.land; rw [h]

/-- A pending word either is a command, which is executed, or ends with ILLEGAL_CMD. -/
theorem State.runWord_cases (s : State) (w : Word) :
    (∃ i, decode w = .ok i ∧ s.runWord w = exec i s) ∨
    (∃ e, decode w = .error e ∧ s.runWord w = s.raise (.illegalCmd w)) := by
  cases h : decode w with
  | ok i => exact .inl ⟨i, rfl, by unfold State.runWord; rw [h]⟩
  | error e => exact .inr ⟨e, rfl, by unfold State.runWord; rw [h]⟩

/-- A pending command with landings left is not completed by a read or a write that comes first. -/
theorem completesNow_read (n : Nat) (a : BusAddr) (rest : List HostAction) :
    completesNow (n + 1) (.read a :: rest) = false := rfl

theorem completesNow_write (n : Nat) (a : BusAddr) (v : Word) (rest : List HostAction) :
    completesNow (n + 1) (.write a v :: rest) = false := rfl

theorem completesNow_nil (n : Nat) : completesNow n [] = true := rfl

theorem completesNow_zero (l : List HostAction) : completesNow 0 l = true := by
  cases l with
  | nil => rfl
  | cons a t => cases a <;> rfl

end Sys2Proof.Machine
end

