-- ==== Sys2Proof/Machine/HostScript.lean ====
section
/-! DEFINITION. The host-script statements and pseudo-instructions (spec/30_encoding.md R120, R121) as lists of
host actions. A host program that decides on what it reads is some list of actions for each of its runs
(assumption log 10). -/

namespace Sys2Proof.Machine

/-- A register or element address from its byte offset (20_memory.md R84). -/
def busAddr (off : Nat) : BusAddr := BitVec.ofNat 20 off

/-- `WR off, v` (R120). -/
def hostWR (off : Nat) (v : Word) : List HostAction := [.write (busAddr off) v]

/-- `RD off` (R120). -/
def hostRD (off : Nat) : List HostAction := [.read (busAddr off)]

/-- A command statement: one write of its word to CMD; the assembler refuses an operand out of its range (R120). -/
def hostCommand (i : Instr) : Option (List HostAction) :=
  if i.wellFormed then some [.write cmdAddr (encode i)] else none

/-- `WAIT`: poll STATUS until BUSY = 0 (R121). -/
def hostWAIT : List HostAction := [.wait]

/-- `EXEC X`: the command statement, then WAIT (R121). -/
def hostEXEC (i : Instr) : Option (List HostAction) := (hostCommand i).map (· ++ hostWAIT)

/-- `SETCFG v, lvl, m, t` (R121). -/
def hostSETCFG (v : BitVec 6) (l : Level) (m : BitVec 3) (t : Bool) : List HostAction :=
  hostWR 0x010 (v.setWidth 32 ||| (codeOfLevel l).setWidth 32 <<< 8 ||| m.setWidth 32 <<< 12
    ||| (BitVec.ofBool t).setWidth 32 <<< 16)

/-- Writes of a list of bytes to consecutive element offsets. -/
def hostLoad (off : Nat) : List Byte → List HostAction
  | [] => []
  | b :: t => .write (busAddr off) (b.setWidth 32) :: hostLoad (off + 4) t

/-- `LDPOLY A, [...]` (R121). -/
def hostLDPOLYA (p : List Byte) : List HostAction := hostWR 0x040 (BitVec.ofNat 32 p.length) ++ hostLoad 0x01000 p

/-- `LDPOLY B, [...]` (R121). -/
def hostLDPOLYB (p : List Byte) : List HostAction := hostWR 0x044 (BitVec.ofNat 32 p.length) ++ hostLoad 0x01400 p

/-- `LDDATA [...]` (R121). -/
def hostLDDATA (d : List Byte) : List HostAction := hostWR 0x050 (BitVec.ofNat 32 d.length) ++ hostLoad 0x04000 d

/-- `LDCW [...]` (R121). -/
def hostLDCW (c : List Byte) : List HostAction := hostWR 0x054 (BitVec.ofNat 32 c.length) ++ hostLoad 0x08000 c

/-- `CLRSTAT`: clear DONE, ERR, WERR (R121). -/
def hostCLRSTAT : List HostAction := hostWR 0x008 0x0000000E

end Sys2Proof.Machine
end

