-- ==== Sys2Proof/Tests/Slice0.lean ====
section
/-! SUPPORT. Tests from the spec's own words, worked examples and figures, and for every obligation with hypotheses
a concrete state and operands that meet them. Every expected value comes from spec/, as each test names. -/

namespace Sys2Proof.Tests

/- One theorem at a time: several of the kernel evaluations below, run beside each other, need more
memory than a check has. -/
set_option Elab.async false

open Sys2Proof.Machine

/-! ### Well-formedness -/

theorem test_wellFormed_exp_low : Instr.wellFormed (.gfExp (-32769)) = false := by decide
theorem test_wellFormed_exp_high : Instr.wellFormed (.gfExp 32768) = false := by decide
theorem test_wellFormed_exp_bounds : WellFormed (.gfExp (-32768)) ∧ WellFormed (.gfExp 32767) := by decide

/-! ### Decoding: words written from 30_encoding.md R111 and R114 -/

/-- The command a word decodes to, if any. -/
def decoded (w : Word) : Option Instr := decodeTableWord 32 w.toNat

theorem test_decode_nop : decoded 0b00000000000000000000000000000000 = some .nop := by decide
/-- IMM16 = -1, OP = 0x01 (vector P1: 0xFFFF0001). -/
theorem test_decode_gfExp : decoded 0b11111111111111110000000000000001 = some (.gfExp (-1)) := by decide
/-- A8 = 0x1D, OP = 0x02 (R146: 0x001D0002). -/
theorem test_decode_gfLog : decoded 0b00000000000111010000000000000010 = some (.gfLog 0x1D) := by decide
/-- B8 = 0x02, A8 = 0x80, OP = 0x03 (vector E9: 0x02800003). -/
theorem test_decode_gfMul : decoded 0b00000010100000000000000000000011 = some (.gfMul 0x80 0x02) := by decide
theorem test_decode_polyMul : decoded 0x00000010 = some .polyMul := by decide
theorem test_decode_polyMod : decoded 0b00000000000000000000000000010001 = some .polyMod := by decide
/-- A8 = 3, OP = 0x12 (R170: 0x00030012). -/
theorem test_decode_polyGen : decoded 0b00000000000000110000000000010010 = some (.polyGen 3) := by decide
theorem test_decode_polyMoveRA : decoded 0x00000013 = some .polyMoveRA := by decide
theorem test_decode_polyMoveRB : decoded 0x00000014 = some .polyMoveRB := by decide
theorem test_decode_rsEncode : decoded 0b00000000000000000000000000100000 = some .rsEncode := by decide
theorem test_decode_gridClear : decoded 0b00000000000000000000000000110000 = some .gridClear := by decide
theorem test_decode_placeFinder : decoded 0x00000031 = some .placeFinder := by decide
theorem test_decode_placeAlign : decoded 0x00000032 = some .placeAlign := by decide
theorem test_decode_placeTiming : decoded 0x00000033 = some .placeTiming := by decide
theorem test_decode_placeFormat : decoded 0x00000034 = some .placeFormat := by decide
theorem test_decode_placeVersion : decoded 0x00000035 = some .placeVersion := by decide
theorem test_decode_mapData : decoded 0b00000000000000000000000000110110 = some .mapData := by decide
theorem test_decode_score : decoded 0x00000037 = some .score := by decide
theorem test_decode_build : decoded 0x00000038 = some .build := by decide
theorem test_decode_autobuild : decoded 0x00000039 = some .autobuild := by decide

/-- Why a word is refused. -/
def refusedFor (w : Word) : Option DecodeError :=
  match decode w with
  | .ok _ => none
  | .error e => some e

/-- The ends of the illegal ranges (R115). -/
theorem test_illegal_opcodes : [(0x04 : Word), 0x0F, 0x15, 0x1F, 0x21, 0x2F, 0x3A, 0xFF].map refusedFor =
    List.replicate 8 (some .illegalOpcode) := by decide +kernel

/-- Reserved bits of each format (R116, vector E8): N, I16, B1 above and below A8, B2. -/
theorem test_reserved_bits : [(0x80000030 : Word), 0x00000100, 0x00080101, 0x01050002, 0x00050102, 0x02800103].map refusedFor =
    List.replicate 6 (some .reservedBits) := by decide +kernel

/-! ### Helpers -/

/-- The state of an outcome. -/
def nextOf : Host.Outcome State Fault Refusal → Option State
  | .next s => some s
  | _ => none

/-- One fact about the state a command leaves. -/
def after (i : Instr) (s : State) (p : State → Bool) : Bool := (nextOf (exec i s)).any p

/-- A memory that holds a list from element 0 on, and zeros above. -/
def mem (l : List Byte) : Memory Byte := (Memory.mk (.all 0) []).writeFrom 0 l

/-- A and B loaded. -/
def polyState (a b : List Byte) : State :=
  { State.reset with
    aLen := BitVec.ofNat 9 a.length
    polyA := mem a
    bLen := BitVec.ofNat 9 b.length
    polyB := mem b }

/-- R loaded. -/
def withR (r : List Byte) (s : State) : State := { s with rLen := Fin.ofNat 257 r.length, polyR := mem r }

/-- CFG written by a host word (10_state.md R35). -/
def withCfg (w : Word) (s : State) : State := { s with cfg := cfgOfWord w }

/-- The codewords loaded. -/
def withCodewords (c : List Byte) (s : State) : State := { s with cwLen := BitVec.ofNat 13 c.length, cwOut := mem c }

/-- A grid of version `v`. -/
def withBoard (v : BitVec 6) (g : Board) (s : State) : State := { s with gridVer := v, grid := memoryOf g }

/-- A row as the figures of the spec print it. -/
def rowText (row : List CellValue) : String :=
  String.ofList (row.map (fun v => match v with | .unset => '?' | .light => '.' | .dark => '#'))

/-- The finders of version 1 (figure R224). -/
def finders1 : Board := placeFinders 21 (Board.empty 21)

/-- The grid of figure R244: version 1, level L, mask 0. -/
def structural1 : Board := structuralBoard 1 1 0 false

/-- The codewords of 42_rs.md R209 (a). -/
def codewordsA : List Byte :=
  [0x40, 0x14, 0x10, 0xEC, 0x11, 0xEC, 0x11, 0xEC, 0x11, 0xEC, 0x11, 0xEC, 0x11, 0xEC, 0x11, 0xEC, 0x11, 0xEC, 0x11]
    ++ [0x52, 0x4B, 0xB5, 0x3B, 0xAF, 0x8D, 0xF1]

/-! ### The field unit -/

/-- R140: from reset NOP leaves everything and STATUS = 0x00000002. -/
theorem test_nop : after .nop State.reset (fun t => decide (t = { State.reset with done := true })
    && t.statusWord == 0x00000002) = true := by decide +kernel
/-- R143. -/
theorem test_gfExp_negative : after (.gfExp (-1)) State.reset (fun t => t.res0 == 0x8E) = true := by decide +kernel
theorem test_gfExp_wraps : after (.gfExp 32767) State.reset (fun t => t.res0 == 0xCC) = true := by decide +kernel
/-- R146. -/
theorem test_gfLog : after (.gfLog 0x8E) State.reset (fun t => t.res0 == 254) = true := by decide +kernel
/-- Vector G3. -/
theorem test_gfLog_zero : after (.gfLog 0) State.reset (fun t => t.statusWord == 0x00000404 && t.errInfo == 0) = true := by
  decide +kernel
/-- R148: not the AES field. -/
theorem test_gfMul : after (.gfMul 0x53 0xCA) State.reset (fun t => t.res0 == 0x8F) = true := by decide +kernel
/-- Vector G5. -/
theorem test_gfMul_zero : after (.gfMul 0x05 0x00) State.reset (fun t => t.errCode == .domainError && t.errInfo == 0x00010000)
    = true := by decide +kernel
/-- The recurrence of R50 over the printed table. -/
theorem test_exp_recurrence : ∀ i < 248,
    expTable (i + 8) = expTable (i + 4) ^^^ expTable (i + 3) ^^^ expTable (i + 2) ^^^ expTable i := by decide +kernel

/-! ### The polynomial engine -/

/-- Vector Q2: a non-canonical A is read as [01 02]. -/
theorem test_polyMul : after .polyMul (polyState [0x00, 0x00, 0x01, 0x02] [0x01, 0x01])
    (fun t => t.coeffsR == [0x01, 0x03, 0x02] && t.aLen == 4) = true := by decide +kernel
/-- Vector Q3. -/
theorem test_polyMul_zero : after .polyMul (polyState [0x01, 0x00, 0x01] [0x01])
    (fun t => t.errCode == .domainError && t.errInfo == 0x00000001) = true := by decide +kernel
/-- Vector Q8. -/
theorem test_polyMod : after .polyMod (polyState [0x12, 0x34, 0x56, 0x00, 0x00, 0x00] [0x01, 0x07, 0x0E, 0x08])
    (fun t => t.coeffsR == [0x81, 0xC3, 0x32]) = true := by decide +kernel
/-- Vector Q11. -/
theorem test_polyMod_zero : after .polyMod (polyState [0x01, 0x02, 0x03, 0x04] [0x01, 0x00, 0x03])
    (fun t => t.errCode == .domainError && t.errInfo == 0x00010001) = true := by decide +kernel
/-- R170. -/
theorem test_polyGen : after (.polyGen 7) State.reset
    (fun t => t.coeffsR == [0x01, 0x7F, 0x7A, 0x9A, 0xA4, 0x0B, 0x44, 0x75]) = true := by decide +kernel
/-- R171, k = 10: the printed logarithms. -/
theorem test_polyGen_logs : (genpoly 10).map glog = [0, 251, 67, 46, 61, 118, 70, 64, 94, 32, 45].map some := by decide +kernel
/-- Vector Q17; the element above keeps its value. -/
theorem test_polyMoveRA : after .polyMoveRA (withR [0x01, 0x03, 0x02] (polyState [9, 9, 9, 9] [8]))
    (fun t => t.aLen == 3 && t.elems .polyA 4 == [0x01, 0x03, 0x02, 9] && t.bLen == 1) = true := by decide +kernel
/-- R174. -/
theorem test_polyMoveRB : after .polyMoveRB (withR [0x01, 0x07, 0x0E, 0x08] (polyState [9] []))
    (fun t => t.bLen == 4 && t.elems .polyB 4 == [0x01, 0x07, 0x0E, 0x08] && t.aLen == 1) = true := by decide +kernel

/-! ### The Reed-Solomon encoder -/

/-- RS1, the worked example of R200. -/
theorem test_rsEncode : after .rsEncode (withCfg 0x00000001 { State.reset with
      dataLen := 16
      cwIn := mem [0x10, 0x20, 0x0C, 0x56, 0x61, 0x80, 0xEC, 0x11, 0xEC, 0x11, 0xEC, 0x11, 0xEC, 0x11, 0xEC, 0x11] })
    (fun t => t.codewords.drop 16 == [0xA5, 0x24, 0xD4, 0xC1, 0xED, 0x36, 0xC7, 0x87, 0x2C, 0x55] && t.cwLen == 26
      && t.res0 == 16) = true := by decide +kernel
/-- RS9: the third block of 5-Q ends at 46. -/
theorem test_rsEncode_bounds : after .rsEncode (withCfg 0x00000305 { State.reset with dataLen := 40 })
    (fun t => t.errCode == .bufferBounds && t.errInfo == 46) = true := by decide +kernel
/-- R202, R209 (d): the short remainder is padded on the left. -/
theorem test_rsParity_short : rsParity [0xE1, 0x93, 0xE0, 0xEC, 0x4C, 0x9B, 0x8A, 0x27, 0x92, 0x11, 0xCA, 0x42, 0xFA, 0xA5,
    0x86, 0x3E, 0x94, 0xDF, 0x71] 7 = [0x00, 0x39, 0x7A, 0x16, 0xD8, 0x48, 0x17] := by decide +kernel
/-- R205, R208: columns over blocks of unequal length. -/
theorem test_interleave : interleave [[1, 2], [3, 4, 5]] [[6, 7], [8, 9]] = [1, 3, 2, 4, 5, 6, 8, 7, 9] := by decide +kernel

/-! ### The structural placer -/

/-- S1: 441 unset cells at version 1. -/
theorem test_gridClear : after .gridClear (withCfg 0x00000001 State.reset)
    (fun t => t.gridVer == 1 && t.board.unsetCount == 441) = true := by decide +kernel
theorem test_gridClear_version : after .gridClear (withCfg 0x00000029 State.reset)
    (fun t => t.errCode == .rangeError && t.errInfo == 41) = true := by decide +kernel
/-- The figure of R224. -/
theorem test_placeFinder : after .placeFinder (withBoard 1 (Board.empty 21) State.reset) (fun t => t.board.map rowText ==
    ["#######.?????.#######", "#.....#.?????.#.....#", "#.###.#.?????.#.###.#", "#.###.#.?????.#.###.#",
     "#.###.#.?????.#.###.#", "#.....#.?????.#.....#", "#######.?????.#######", "........?????........"]
    ++ List.replicate 5 "?????????????????????" ++
    ["........?????????????", "#######.?????????????", "#.....#.?????????????", "#.###.#.?????????????",
     "#.###.#.?????????????", "#.###.#.?????????????", "#.....#.?????????????", "#######.?????????????"]) = true := by
  decide +kernel
/-- PL5: one pattern at version 2, centred at (18, 18). -/
theorem test_placeAlign : after .placeAlign (withBoard 2 (placeFinders 25 (Board.empty 25)) State.reset)
    (fun t => t.board.unsetCount + 25 == (placeFinders 25 (Board.empty 25)).unsetCount && t.cell 18 18 == .dark
      && t.cell 18 17 == .light && t.cell 16 18 == .dark && t.cell 15 18 == .unset) = true := by decide +kernel
/-- PL2: 10 cells at version 1. -/
theorem test_placeTiming : after .placeTiming (withBoard 1 finders1 State.reset)
    (fun t => t.board.unsetCount == 239 && t.cell 6 8 == .dark && t.cell 6 9 == .light && t.cell 12 6 == .dark) = true := by
  decide +kernel
/-- PL3: row 8 and the dark module. -/
theorem test_placeFormat : after .placeFormat (withCfg 0x00000101 (withBoard 1 (placeTimings 21 finders1) State.reset))
    (fun t => rowText (t.board.getD 8 []) == "###.#####????##...#.." && t.cell 13 8 == .dark && t.board.unsetCount == 208)
    = true := by decide +kernel
/-- PL8: the top-right block at version 7. -/
theorem test_placeVersion : after .placeVersion (withBoard 7 (Board.empty 45) State.reset)
    (fun t => (t.board.take 6).map (fun row => rowText ((row.drop 34).take 3)) ==
      ["..#", ".#.", ".#.", ".##", "###", "..."]) = true := by decide +kernel
/-- PL11: 208 cells are left at version 1 and 359 at version 2. -/
theorem test_structuralUnset : structuralUnset 1 = 208 ∧ structuralUnset 2 = 359 := by decide +kernel

/-! ### The mapper, the penalty and the builds -/

/-- M1. -/
theorem test_mapData : after .mapData (withCodewords (0xFF :: List.replicate 25 0) (withBoard 1 structural1 State.reset))
    (fun t => [t.cell 20 20, t.cell 20 19, t.cell 19 20, t.cell 19 19, t.cell 18 20, t.cell 18 19, t.cell 17 20, t.cell 17 19,
      t.cell 16 20] == [.light, .dark, .dark, .light, .light, .dark, .dark, .light, .dark]) = true := by decide +kernel
/-- M2; that GRID keeps its cells is one conforming implementation (R307), which the model does not assume. -/
theorem test_mapData_overflow : after .mapData (withCodewords (List.replicate 27 0) (withBoard 1 structural1 State.reset))
    (fun t => t.errCode == .capacityOverflow && t.errInfo == 27 && t.gridVer == 1) = true := by
  decide +kernel
/-- R266: visits 100 and 101, and the last, at version 1. -/
theorem test_scan : let l := visitedCells 21 structural1
    l.length = 208 ∧ l[0]? = some (20, 20) ∧ l[100]? = some (18, 12) ∧ l[101]? = some (18, 11) ∧ l[207]? = some (12, 0) := by
  decide +kernel
/-- M5: the components of a version 1 grid with every cell dark. -/
theorem test_penalty_dark : let dark : Colours := fun _ _ => true
    [penalty1 21 dark, penalty2 21 dark, penalty3 21 dark, penalty4 21 dark] = [2166, 1200, 0, 100] := by decide +kernel
/-- M8: the checkerboard with the pattern written over row 10. -/
theorem test_penalty_pattern : let dark : Colours :=
      fun r c => if r = 10 then pattern3.getD c ((r + c) % 2 == 0) else (r + c) % 2 == 0
    [penalty2 21 dark, penalty3 21 dark, penalty4 21 dark] = [0, 80, 0] := by decide +kernel
/-- M3. -/
theorem test_score_incomplete : after .score (withBoard 1 structural1 State.reset)
    (fun t => t.errCode == .incompleteGrid && t.errInfo == 208) = true := by decide +kernel
/-- R283: BUILD with mask 0 gives the printed grid. -/
theorem test_build : after .build (withCodewords codewordsA (withCfg 0x00000101 State.reset)) (fun t => t.board.map rowText ==
    ["#######..#.##.#######", "#.....#..###..#.....#", "#.###.#.##.##.#.###.#", "#.###.#..#.#..#.###.#",
     "#.###.#...#.#.#.###.#", "#.....#.....#.#.....#", "#######.#.#.#.#######", "........##.##........",
     "###.########.##...#..", "#.##....#.....#...##.", ".#.####..##.#...#...#", ".#.##...##....#...#.."]
    ++ ["..##.##.#...#.#.#.#.#", "........#..#.#.#.#.#.", "#######.#.##.###.####", "#.....#.######.###...",
     "#.###.#.##.#.###.##.#", "#.###.#..##...#...##.", "#.###.#.##..#...#...#", "#.....#.#.....#...##.",
     "#######.###.#.#.#.###"]) = true := by decide +kernel
/-- R283 and P3: the choice among the printed penalties; a tie goes to the lowest mask (R282). -/
theorem test_autobuild_choice : chooseMask [1172, 1485, 1205, 1173, 1195, 1250, 1340, 1213] = (0, 1172) ∧
    chooseMask [1404, 1523, 1175, 1173, 1307, 1354, 1224, 1244] = (3, 1173) ∧ chooseMask [7, 5, 5, 9, 6, 7, 8, 9] = (1, 5) := by
  decide +kernel

/-! ### Status and bus -/

/-- R320 and X3: IRQ follows DONE, ERR and IRQ_EN. -/
theorem test_irq : State.irq { State.reset with irqEn := true, done := true } = true ∧
    State.irq { State.reset with irqEn := false, done := true } = false ∧
    State.irq { State.reset with irqEn := true, werr := true } = false := by decide
/-- P5: a STATUS write of 0x0000000E clears DONE, ERR and WERR and keeps ERR_CODE. -/
theorem test_clrstat : (State.busWrite { State.reset with err := true, errCode := .bufferBounds } 0x00008 0x0000000E).statusWord
    = 0x00000500 := by decide
/-- R85: a write to a read-only register, to POLY_R or to an unmapped offset while BUSY = 1 changes nothing. -/
theorem test_busy_ignored : [(0x00020 : BusAddr), 0x01800, 0x0001C].map (fun a =>
    decide (State.busWrite { State.reset with seq := .busy 0 1 } a 5 = { State.reset with seq := .busy 0 1 })) =
    [true, true, true] := by decide +kernel
/-- X4: a CFG write while BUSY = 1 is dropped and sets WERR. -/
theorem test_busy_write : let t := State.busWrite { State.reset with seq := .busy 0 1 } 0x00010 5
    t.werr = true ∧ t.cfg = State.reset.cfg := by decide
/-- R49: cell (20, 20) of version 1 is at 0x40000 + 4 * (20 * 256 + 20); (21, 0) is outside. -/
theorem test_cell_read : targetOf 0x45050 = .cell 20 20 ∧ targetOf 0x45400 = .cell 21 0 ∧
    (withBoard 1 (List.replicate 21 (List.replicate 21 .dark)) State.reset).busWord (.cell 20 20) = 3 ∧
    (withBoard 1 (List.replicate 21 (List.replicate 21 .dark)) State.reset).busWord (.cell 21 0) = 0 := by decide +kernel

/-- R121: SETCFG 1, L, 0, 0 writes 0x00000101; R120: an operand out of its range is rejected, not truncated. -/
theorem test_hostScript : hostSETCFG 1 .L 0 false = [.write 0x00010 0x00000101] ∧
    hostEXEC (.gfMul 0x8E 0x02) = some [.write 0x0000C 0x028E0003, .wait] ∧ hostCommand (.gfExp 40000) = none ∧
    hostLDPOLYB [0x01, 0x02] = [.write 0x00044 2, .write 0x01400 1, .write 0x01404 2] := by decide +kernel

/-! ### A state and operands for every obligation with hypotheses -/

theorem witness_DecodeOfEncodeIsTheCommand : WellFormed (.gfExp (-32768)) ∧ WellFormed (.gfMul 0xFF 0x00) := by decide

theorem witness_EncodeOfDecodeIsTheWord : decode 0x80000001 = .ok (.gfExp (-32768)) := rfl

/-- A word with an illegal opcode. -/
theorem witness_IllegalOpcodesAreExactlyTheGaps : decode 0x00000004 = .error .illegalOpcode := rfl

/-- One word for each of the three clauses. -/
theorem witness_ReservedBitsAreRefused : refusedFor 0x00080101 = some .reservedBits ∧ refusedFor 0x01000012 = some .reservedBits ∧
    refusedFor 0x00000139 = some .reservedBits := by decide +kernel

/-- A pending NOP, with no host action to come. -/
def pendingNop : State := { State.reset with seq := .busy 0 0 }

theorem witness_StepRunsTheDecodedCommand : (pendingNop.seq = .busy 0 0 ∧ completesNow 0 pendingNop.host = true ∧
    decode 0 = .ok .nop) ∧ ∃ s : State, s.seq = .busy 4 3 ∧ completesNow 3 s.host = true ∧ decode 4 = .error .illegalOpcode :=
  ⟨⟨rfl, rfl, rfl⟩, { State.reset with seq := .busy 4 3, host := [.wait] }, rfl, rfl, rfl⟩

/-- The first and the last byte address of CMD. -/
theorem witness_CmdWriteIsAccepted : (0x0000C : BusAddr).toNat / 4 = 3 ∧ (0x0000F : BusAddr).toNat / 4 = 3 ∧
    ∃ s : State, s.seq = .idle ∧ s.host = [.write 0x0000F 7] :=
  ⟨by decide, by decide, { State.reset with host := [.write 0x0000F 7] }, rfl, rfl⟩

theorem witness_GfLogWritesTheLogarithm : (1 : Byte) ≠ 0 ∧ (0xFF : Byte) ≠ 0 := by decide

theorem witness_GfMulWritesTheFieldProduct : (0x80 : Byte) ≠ 0 ∧ (0x02 : Byte) ≠ 0 := by decide

theorem witness_FieldLawsHold : glog 0x8E = some 254 ∧ glog 1 = some 0 := by decide +kernel

/-- The product of 1 and of 256 coefficients just fits. -/
theorem witness_PolyMulWritesTheProduct : let s := polyState [3] (List.replicate 256 1)
    s.aLen.toNat ≤ 256 ∧ s.bLen.toNat ≤ 256 ∧ s.operandA ≠ [] ∧ s.operandB ≠ [] ∧ 0 ∉ s.operandA ∧ 0 ∉ s.operandB ∧
      s.operandA.length + s.operandB.length ≤ 257 := by decide +kernel

/-- The clauses of POLY_MUL's errors, in order, each at the first value that raises it. -/
theorem witness_PolyMulReportsTheFirstError :
    256 < (State.aLen { State.reset with aLen := 257 }).toNat ∧
    (State.aLen { State.reset with aLen := 256, bLen := 257 }).toNat ≤ 256 ∧
    256 < (State.bLen { State.reset with aLen := 256, bLen := 257 }).toNat ∧
    (polyState [0] [1]).operandA = [] ∧
    ((polyState [1] [0, 0]).operandA ≠ [] ∧ (polyState [1] [0, 0]).operandB = []) ∧
    256 < (polyState [1, 1] (List.replicate 256 1)).operandA.length + (polyState [1, 1] (List.replicate 256 1)).operandB.length - 1 ∧
    ((polyState [1, 0, 0] [1, 0]).operandA[1]? = some 0 ∧ 0 ∉ (polyState [1, 0, 0] [1, 0]).operandA.take 1) ∧
    (0 ∉ (polyState [1] [1, 0, 0]).operandA ∧ (polyState [1] [1, 0, 0]).operandB[1]? = some 0 ∧
      0 ∉ (polyState [1] [1, 0, 0]).operandB.take 1) := by decide +kernel

/-- Both cases: a dividend shorter than a divisor with a zero, and a divisor without zeros. -/
theorem witness_PolyModWritesTheRemainder :
    (let s := polyState [5] [1, 0, 3]
     s.aLen.toNat ≤ 256 ∧ s.bLen.toNat ≤ 256 ∧ s.operandB ≠ [] ∧ s.operandA.length < s.operandB.length) ∧
    (let s := polyState [1, 0] [1, 2]
     s.aLen.toNat ≤ 256 ∧ s.bLen.toNat ≤ 256 ∧ s.operandB ≠ [] ∧ ¬ s.operandA.length < s.operandB.length ∧ 0 ∉ s.operandB) := by
  decide +kernel

theorem witness_PolyModDivides : let s := polyState [1, 0, 7] [1, 2]
    s.aLen.toNat ≤ 256 ∧ s.bLen.toNat ≤ 256 ∧ s.operandB ≠ [] ∧ 0 ∉ s.operandB := by decide +kernel

theorem witness_PolyModReportsTheFirstError :
    256 < (State.aLen { State.reset with aLen := 257 }).toNat ∧
    ((State.aLen { State.reset with aLen := 256, bLen := 257 }).toNat ≤ 256 ∧
      256 < (State.bLen { State.reset with aLen := 256, bLen := 257 }).toNat) ∧
    (polyState [1] [0]).operandB = [] ∧
    (let s := polyState [1, 1] [1, 0]
     s.operandB ≠ [] ∧ s.operandB.length ≤ s.operandA.length ∧ s.operandB[1]? = some 0 ∧ 0 ∉ s.operandB.take 1) := by
  decide +kernel

/-- The last root of the generator with 255 factors. -/
theorem witness_PolyGenHasItsRoots : (∃ t, exec (.polyGen 255) State.reset = .next t) ∧ 254 < (255 : Byte).toNat :=
  ⟨⟨_, rfl⟩, by decide⟩

/-- A state with a coefficient to copy and an element above it. -/
theorem witness_PolyMovesCopyR : 0 < (withR [5] State.reset).rLen.val ∧ (withR [5] State.reset).rLen.val ≤ 1 := by decide +kernel

/-- The first and the last version, each with DATA_LEN at its capacity. -/
theorem witness_RsEncodeWritesTheCodewords :
    (let s := withCfg 0x00000101 { State.reset with dataLen := 19 }
     legalVersion s ∧ rsBlocks s.cfg.version.toNat (levelOfCode s.cfg.ecl) = some [⟨26, 19⟩] ∧
       capacityOf [⟨26, 19⟩] ≤ s.dataLen.toNat) ∧
    legalVersion (withCfg 0x00000128 State.reset) := by
  refine ⟨⟨⟨by decide, by decide⟩, by decide +kernel, by decide⟩, by decide, by decide⟩

theorem witness_RsParityHasZeroSyndromes : 30 ≤ 30 ∧ 29 < 30 := by decide

/-- The blocks of 5-Q: the last data byte of a long block and the last parity byte of the first; and one block. -/
theorem witness_RsInterleavesTheBlocks :
    (let bs : List RsBlock := [⟨33, 15⟩, ⟨33, 15⟩, ⟨34, 16⟩, ⟨34, 16⟩]
     (List.replicate 62 (7 : Byte)).length = capacityOf bs ∧ bs[3]? = some ⟨34, 16⟩ ∧ 15 < (RsBlock.mk 34 16).data ∧
       bs[0]? = some ⟨33, 15⟩ ∧ 17 < (RsBlock.mk 33 15).ec) ∧
    (List.replicate 19 (7 : Byte)).length = (RsBlock.mk 26 19).data := by decide

/-- Both ends of the illegal versions, and the third block of 5-Q with DATA_LEN = 30. -/
theorem witness_RsEncodeReportsTheFirstError :
    ¬ legalVersion (withCfg 0x00000000 State.reset) ∧ ¬ legalVersion (withCfg 0x00000029 State.reset) ∧
    (let bs : List RsBlock := [⟨33, 15⟩, ⟨33, 15⟩, ⟨34, 16⟩, ⟨34, 16⟩]
     rsBlocks 5 (levelOfCode 3) = some bs ∧ 2 < bs.length ∧ 30 < capacityOf (bs.take 3) ∧ capacityOf (bs.take 2) ≤ 30) :=
  ⟨fun h => absurd h.1 (by decide), fun h => absurd h.2 (by decide), by decide +kernel⟩

/-- The first and the last legal version, and the illegal ones beside them. -/
theorem witness_GridClearMakesTheEmptyGrid : legalVersion (withCfg 0x00000001 State.reset) ∧
    legalVersion (withCfg 0x00000028 State.reset) ∧ ¬ legalVersion (withCfg 0x00000000 State.reset) ∧
    ¬ legalVersion (withCfg 0x00000029 State.reset) :=
  ⟨⟨by decide, by decide⟩, ⟨by decide, by decide⟩, fun h => absurd h.1 (by decide), fun h => absurd h.2 (by decide)⟩

/-- A state with a grid, used by the placing commands' witnesses. -/
theorem witness_grid : (withBoard 1 (Board.empty 21) State.reset).gridVer ≠ 0 ∧
    (withBoard 40 (Board.empty 177) State.reset).gridVer ≠ 0 := by decide +kernel

/-- One cell in each branch at version 1, the corners of the windows included. -/
theorem witness_PlaceFinderDrawsThreeFinders : let s := withBoard 1 (Board.empty 21) State.reset
    s.gridVer ≠ 0 ∧ s.dim = 21 ∧ (7 ≤ 7 ∧ 7 ≤ 7) ∧ (s.dim - 8 ≤ 13 ∧ 13 < s.dim) ∧ (8 < s.dim ∧ ¬ (8 ≤ 7) ∧ ¬ (s.dim - 8 ≤ 8)) := by
  decide +kernel

/-- A centre that is unset, one that is set, and a cell of no footprint. -/
theorem witness_PlaceAlignDrawsOnUnsetCentres : let s := withBoard 2 (placeFinders 25 (Board.empty 25)) State.reset
    s.gridVer ≠ 0 ∧ (18, 18) ∈ alignCentres s.version ∧ s.cell 18 18 = .unset ∧ (6, 6) ∈ alignCentres s.version ∧
    s.cell 6 6 ≠ .unset ∧
    ∀ p ∈ alignCentres s.version, ¬ (12 ≤ p.1 + 2 ∧ p.1 ≤ 12 + 2 ∧ 12 ≤ p.2 + 2 ∧ p.2 ≤ 12 + 2) := by decide +kernel

theorem witness_PlaceTimingFillsTheTimingLines : let s := withBoard 1 finders1 State.reset
    s.gridVer ≠ 0 ∧ s.cell 8 6 = .unset ∧ s.cell 6 8 = .unset ∧ s.cell 7 6 ≠ .unset := by decide +kernel

/-- The first and the last bit, and a cell of no strip. -/
theorem witness_PlaceFormatWritesBothStrips : let s := withBoard 1 (Board.empty 21) State.reset
    s.gridVer ≠ 0 ∧ 0 < 15 ∧ 14 < 15 ∧ ¬ (8 = 8 ∧ ((6 : Nat) ≤ 5 ∨ (6 : Nat) = 7 ∨ (6 : Nat) = 8 ∨ s.dim - 8 ≤ 6)) ∧
      ¬ ((6 : Nat) = 8 ∧ ((8 : Nat) ≤ 5 ∨ (8 : Nat) = 7 ∨ s.dim - 8 ≤ 8)) := by decide +kernel

/-- Version 1, level L, mask 0: the strip of figure R244 is 0x77C4. -/
theorem witness_FormatStripsGiveBackLevelAndMask : let s := withCfg 0x00000101 (withBoard 1 (Board.empty 21) State.reset)
    s.gridVer ≠ 0 ∧ s.cfg.test = false ∧ after .placeFormat s (fun t => (List.range 15).all (fun i =>
      ((0x77C4).testBit i == (t.cell (formatVertical s.dim i).1 (formatVertical s.dim i).2 == .dark)) &&
      ((0x77C4).testBit i == (t.cell (formatHorizontal s.dim i).1 (formatHorizontal s.dim i).2 == .dark)))) = true := by
  decide +kernel

/-- Versions 6 and 7, on both sides of the first version with version information. -/
theorem witness_PlaceVersionWritesBothBlocks : (withBoard 6 (Board.empty 41) State.reset).version < 7 ∧
    (withBoard 6 (Board.empty 41) State.reset).gridVer ≠ 0 ∧ 7 ≤ (withBoard 7 (Board.empty 45) State.reset).version ∧
    17 < 18 ∧ (withBoard 7 (Board.empty 45) State.reset).dim - 11 = 34 := by decide +kernel

/-- Both ends of the versions with an area, and no grid. -/
theorem witness_GridCommandsNeedAGrid : State.reset.gridVer = 0 ∧ State.reset.gridVer.toNat ≤ 40 ∧
    (withBoard 40 (Board.empty 177) State.reset).gridVer.toNat ≤ 40 := by decide +kernel

/-- The first and the last version, and cells of the columns beside column 6. -/
theorem witness_ScanNamesEveryCellOnceInOrder : 1 ≤ 1 ∧ 1 ≤ 40 ∧ 40 ≤ 40 ∧ 20 < dimOf 1 ∧ 176 < dimOf 40 ∧ 7 ≠ 6 ∧ 5 ≠ 6 := by
  decide

/-- 26 codewords fill the 208 cells of version 1 exactly; the first and the last visited cell, and cells that keep theirs. -/
theorem witness_MapDataPlacesTheBits : let s := withCodewords codewordsA (withBoard 1 structural1 State.reset)
    s.gridVer ≠ 0 ∧ 8 * s.cwLen.toNat = 208 ∧ s.board.unsetCount = 208 ∧ (visitedCells s.dim s.board)[0]? = some (20, 20) ∧
    (visitedCells s.dim s.board)[207]? = some (12, 0) ∧ s.cell 0 0 ≠ .unset := by decide +kernel

/-- One codeword too many, and a CW_LEN above CW_MAX. -/
theorem witness_MapDataReportsOverflow :
    (let s := withCodewords (List.replicate 27 0) (withBoard 1 structural1 State.reset)
     s.gridVer ≠ 0 ∧ s.board.unsetCount < 8 * s.cwLen.toNat) ∧
    4096 < (State.cwLen { State.reset with cwLen := 4097 }).toNat := by decide +kernel

theorem witness_ScoreWritesThePenalty : let s := withBoard 1 (List.replicate 21 (List.replicate 21 .dark)) State.reset
    s.gridVer ≠ 0 ∧ s.board.unsetCount = 0 := by decide +kernel

theorem witness_ScoreNeedsACompleteGrid : State.reset.gridVer = 0 ∧ (withBoard 1 structural1 State.reset).gridVer ≠ 0 ∧
    (withBoard 1 structural1 State.reset).board.unsetCount ≠ 0 := by decide +kernel

/-- Version 1 with its 26 codewords, level L: CFG = 0x00000101. -/
def buildable : State := withCodewords codewordsA (withCfg 0x00000101 State.reset)

/-- The codewords fill the version exactly; shared by BUILD's and AUTOBUILD's statements. -/
theorem witness_build : legalVersion buildable ∧ 8 * buildable.cwLen.toNat ≤ structuralUnset buildable.cfg.version.toNat ∧
    8 * buildable.cwLen.toNat = 208 := ⟨⟨by decide, by decide⟩, by decide +kernel, by decide +kernel⟩

theorem witness_BuildCompletesTheSymbol : legalVersion buildable ∧
    8 * buildable.cwLen.toNat ≤ structuralUnset buildable.cfg.version.toNat := ⟨witness_build.1, witness_build.2.1⟩

theorem witness_BuildEqualsTheCommandSequence : legalVersion buildable ∧
    8 * buildable.cwLen.toNat ≤ structuralUnset buildable.cfg.version.toNat := ⟨witness_build.1, witness_build.2.1⟩

theorem witness_BuildsReportTheFirstError : ¬ legalVersion (withCfg 0x00000000 State.reset) ∧
    ¬ legalVersion (withCfg 0x00000029 State.reset) ∧
    legalVersion { buildable with cwLen := 27 } ∧ structuralUnset buildable.cfg.version.toNat < 8 * 27 :=
  ⟨fun h => absurd h.1 (by decide), fun h => absurd h.2 (by decide), ⟨by decide, by decide⟩, by decide +kernel⟩

theorem witness_AutobuildChoosesTheBestMask : legalVersion buildable ∧
    8 * buildable.cwLen.toNat ≤ structuralUnset buildable.cfg.version.toNat := ⟨witness_build.1, witness_build.2.1⟩

theorem witness_TrialScoresAreBuildThenScore : legalVersion buildable ∧
    8 * buildable.cwLen.toNat ≤ structuralUnset buildable.cfg.version.toNat ∧ ∃ t, exec .autobuild buildable = .next t := by
  refine ⟨witness_build.1, witness_build.2.1, ?_⟩
  simp only [exec, execAutobuild]
  cases buildable.buildCheck with
  | error e => exact ⟨_, rfl⟩
  | ok v => exact ⟨_, rfl⟩

/-- Two states that differ in the grid, in RES0 and in an element above CW_LEN. -/
theorem witness_BuildsDependOnTheirOperandsOnly : let s' := { buildable with
      res0 := 5
      grid := memoryOf finders1
      cwOut := buildable.cwOut.write 26 0x55 }
    s'.cfg = buildable.cfg ∧ s'.cwLen = buildable.cwLen ∧
    ∀ k, k < buildable.cwLen.toNat → s'.elem .cwOut k = buildable.elem .cwOut k := by decide +kernel

theorem witness_CommandsWriteOnlyTheirRow : ∃ t, exec .nop State.reset = .next t := ⟨_, rfl⟩

/-- A read of CMD and one of ID, idle. -/
theorem witness_IdleReadsHaveNoSideEffect : ∃ s s' : State, s.seq = .idle ∧ s.host = [.read 0x0000C] ∧
    targetOf 0x0000C = .cmd ∧ s'.seq = .idle ∧ s'.host = [.read 0x00003] ∧ (0x00003 : BusAddr).toNat < 4 :=
  ⟨{ State.reset with host := [.read 0x0000C] }, { State.reset with host := [.read 0x00003] }, rfl, rfl, by decide, rfl, rfl,
    by decide⟩

/-- Writes to the last byte of each ignored range. -/
theorem witness_UnmappedAndReadOnlyWritesAreIgnored : targetOf 0xFFFFF = .unmapped ∧ (0x00003 : BusAddr).toNat / 4 = 0 ∧
    (0x00033 : BusAddr).toNat < 0x34 ∧ (0x0004B : BusAddr).toNat < 0x4C ∧ (0x0007F : BusAddr).toNat < 0x80 ∧
    (0x01BFF : BusAddr).toNat < 0x1C00 ∧ ∃ s : State, s.seq = .idle ∧ s.host = [.write 0x01BFF 1] :=
  ⟨by decide, by decide, by decide, by decide, by decide, by decide, { State.reset with host := [.write 0x01BFF 1] }, rfl, rfl⟩

/-- Writes to the last byte of CTRL, STATUS and CFG and to both ends of the dropped and the ignored ranges, a read of an
answered and of an unanswered target. -/
theorem witness_BusyAccessesFollowTheRule : (0x00007 : BusAddr).toNat / 4 = 1 ∧ (0x0000B : BusAddr).toNat / 4 = 2 ∧
    ((0x00013 : BusAddr).toNat / 4 ∈ [0x0C / 4, 0x10 / 4, 0x40 / 4, 0x44 / 4, 0x50 / 4, 0x54 / 4] ∧
      (0x017FF : BusAddr).toNat < 0x1800 ∧ 0x4000 ≤ (0x04000 : BusAddr).toNat ∧ (0x7FFFF : BusAddr).toNat < 0x80000) ∧
    (targetOf 0x0001C = .unmapped ∧ (0x00033 : BusAddr).toNat < 0x34 ∧ 0x1800 ≤ (0x01800 : BusAddr).toNat) ∧
    targetOf 0x00018 ∈ [.id, .ctrl, .status, .cfg, .lastCmd, .unmapped] ∧
    targetOf 0x00020 ∉ [.id, .ctrl, .status, .cfg, .lastCmd, .unmapped] ∧
    (∃ s : State, s.seq = .busy 0 1 ∧ s.host = [.write 0x00013 5]) ∧ ∃ s : State, s.seq = .busy 0 1 ∧ s.host = [.read 0x00020] :=
  ⟨by decide, by decide, by decide, by decide, by decide, by decide,
    ⟨{ State.reset with seq := .busy 0 1, host := [.write 0x00013 5] }, rfl, rfl⟩,
    { State.reset with seq := .busy 0 1, host := [.read 0x00020] }, rfl, rfl⟩

/-- A word for each of the four writes that clear IRQ. -/
theorem witness_IrqIsALevel : ((6 : Word).getLsbD 1 = true ∧ (6 : Word).getLsbD 2 = true) ∧ State.reset.seq = .idle ∧
    (1 : Word).getLsbD 0 = true ∧ (0 : Word).getLsbD 0 = false ∧ (0 : Word).getLsbD 1 = false := by decide

/-- The last elements of A and CW_OUT, the last active cell of version 1 and the first one outside. -/
theorem witness_ElementAndCellWritesAreReadBack : State.reset.seq = .idle ∧ targetOf 0x013FC = .element .polyA 255 ∧
    targetOf 0x0BFFC = .element .cwOut 4095 ∧ targetOf 0x45050 = .cell 20 20 ∧ targetOf 0x45054 = .cell 20 21 ∧
    (withBoard 1 (Board.empty 21) State.reset).dim = 21 := by decide +kernel

theorem witness_RegisterWritesKeepTheirBits : State.reset.seq = .idle := rfl

/-- A soft reset idle, and one that aborts GF_EXP, whose destination is RES0 alone. -/
theorem witness_SoftResetResetsTheRegisters : (1 : Word).getLsbD 0 = true ∧ State.reset.seq = .idle ∧
    State.seq { State.reset with seq := .busy 0x00010001 1 } = .busy 0x00010001 1 ∧ Dest.regA ∉ abortedDests 0x00010001 ∧
    Dest.grid ∉ abortedDests 0x00010001 := by decide +kernel

/-- The reset state meets the invariant and has a next state. -/
theorem witness_EveryStepKeepsTheInvariant : State.reset.Inv ∧ ∃ t, step State.reset = .next t :=
  ⟨by decide +kernel, ⟨_, rfl⟩⟩

end Sys2Proof.Tests
end

section
/-! SUPPORT. The number of codewords RS_ENCODE writes (42_rs.md R200 to R205). -/

namespace Sys2Proof.Machine

theorem length_columnOf_cons (b : List Byte) (t : List (List Byte)) (i : Nat) :
    (columnOf (b :: t) i).length = (if i < b.length then 1 else 0) + (columnOf t i).length := by
  unfold columnOf
  by_cases h : i < b.length
  · simp [h, Nat.add_comm]
  · simp [h]

theorem sum_range_lt (n k : Nat) : ((List.range n).map (fun i => if i < k then 1 else 0)).sum = min n k := by
  induction n with
  | zero => simp
  | succ n ih =>
    rw [List.range_succ, List.map_append, List.sum_append, ih]
    by_cases h : n < k <;> simp [h] <;> omega

/-- The first `n` columns of blocks that have at most `n` elements hold every element. -/
theorem sum_length_columnOf {n : Nat} : ∀ {blocks : List (List Byte)}, (∀ b ∈ blocks, b.length ≤ n) →
    ((List.range n).map (fun i => (columnOf blocks i).length)).sum = (blocks.map List.length).sum := by
  intro blocks h
  induction blocks with
  | nil => simp [columnOf]
  | cons b t ih =>
    simp only [length_columnOf_cons, List.sum_map_add, sum_range_lt]
    rw [ih (fun x hx => h x (List.mem_cons_of_mem b hx)), Nat.min_eq_right (h b List.mem_cons_self),
      List.map_cons, List.sum_cons]

theorem le_foldl_max {l : List Nat} {x : Nat} (h : x ∈ l) : x ≤ l.foldl max 0 := by
  rw [List.foldl_max]
  refine Nat.le_trans ?_ (Nat.le_max_right _ _)
  exact List.le_max?_getD_of_mem h

/-- Read column-major, the blocks keep their elements' number (42_rs.md R205). -/
theorem length_columnMajor (blocks : List (List Byte)) :
    (columnMajor blocks).length = (blocks.map List.length).sum := by
  unfold columnMajor
  rw [List.length_flatMap]
  exact sum_length_columnOf (fun b hb => le_foldl_max (List.mem_map_of_mem hb))

/-- The blocks hold no more data than the input. -/
theorem sum_length_splitBlocks_le (bs : List RsBlock) :
    ∀ d, ((splitBlocks bs d).map List.length).sum ≤ d.length := by
  induction bs with
  | nil => intro d; simp [splitBlocks]
  | cons b t ih =>
    intro d
    have := ih (d.drop b.data)
    simp only [splitBlocks, List.map_cons, List.sum_cons, List.length_take, List.length_drop] at this ⊢
    omega

/-- The parity blocks hold as many codewords as the block list says. -/
theorem sum_length_parity (bs : List RsBlock) : ∀ dc : List (List Byte), dc.length = bs.length →
    ((List.zipWith (fun b x => rsParity x b.ec) bs dc).map List.length).sum = (bs.map RsBlock.ec).sum := by
  induction bs with
  | nil => intro dc _; simp
  | cons b t ih =>
    intro dc h
    cases dc with
    | nil => simp at h
    | cons x u =>
      simp only [List.zipWith_cons_cons, List.map_cons, List.sum_cons, length_rsParity, ih u (by simpa using h)]

/-- In a sound block list data and parity together are the codewords. -/
theorem capacityOf_add_sum_ec {bs : List RsBlock} (h : ∀ b ∈ bs, b.data < b.total) :
    capacityOf bs + (bs.map RsBlock.ec).sum = (bs.map RsBlock.total).sum := by
  unfold capacityOf
  rw [← List.sum_map_add]
  refine congrArg List.sum (List.map_congr_left fun b hb => ?_)
  have := h b hb
  unfold RsBlock.ec
  omega

/-- A sound block list with its capacity of data gives at most 3706 codewords (42_rs.md R192). -/
theorem length_rsCodewords_le {bs : List RsBlock} (h : blocksSound bs = true) {d : List Byte}
    (hd : d.length = capacityOf bs) : (rsCodewords bs d).length ≤ 3706 := by
  simp only [blocksSound, Bool.and_eq_true, decide_eq_true_eq, List.all_eq_true] at h
  obtain ⟨⟨⟨⟨-, hb⟩, htotal⟩, -⟩, -⟩ := h
  have hsplit := sum_length_splitBlocks_le bs d
  have hsum := capacityOf_add_sum_ec (fun b hm => (hb b hm).1.1.1)
  simp only [rsCodewords, interleave, List.length_append, length_columnMajor,
    sum_length_parity bs _ (length_splitBlocks bs d)]
  omega

/-- The block list that passes RS_ENCODE's checks is an entry of the block table, so it is sound. -/
theorem blocksSound_of_rsEncodeCheck {s : State} {bs : List RsBlock} (h : rsEncodeCheck s = .ok bs) :
    blocksSound bs = true := by
  unfold rsEncodeCheck at h
  split at h
  · cases h
  · rename_i bs' hbs
    split at h
    · cases h
    · cases h
      have hv : ¬ (s.cfg.version.toNat = 0 ∨ 40 < s.cfg.version.toNat) := fun hv => by
        rw [rsBlocks_none hv] at hbs; cases hbs
      obtain ⟨bs'', e, hsound⟩ := rsBlocks_spec (show 1 ≤ s.cfg.version.toNat by omega) (by omega)
        (levelOfCode s.cfg.ecl)
      rw [hbs] at e
      cases e
      exact hsound

end Sys2Proof.Machine
end

section
/-! SUPPORT. The data of the machine stays sound: every memory canonical and R a canonical polynomial. -/

namespace Sys2Proof.Machine

/-- The part of the invariant that is about data: the memories and R (10_state.md R40, R45 to R49). -/
def State.dataSound (s : State) : Prop := s.memoriesSound ∧ s.canonicalR

/-- R stays canonical where R is unchanged. -/
theorem State.canonicalR_of_unchanged {s t : State} (hu : Dest.regR.unchanged s t) (h : s.canonicalR) : t.canonicalR := by
  intro h0
  obtain ⟨hlen, helem⟩ := hu
  rw [helem 0]
  exact h (hlen ▸ h0)

/-- R holds a canonical polynomial after one was written. -/
theorem State.canonicalR_setR (s : State) {p : List Byte} (h : p.head? ≠ some 0) : (s.setR p).canonicalR := by
  intro h0
  cases p with
  | nil => exact absurd rfl h0
  | cons x t =>
    have e : (s.setR (x :: t)).elem .polyR 0 = x := by simp [State.elem, State.mem, Memory.read_writeFrom]
    rw [e]
    simpa using h

/-- Writing a canonical polynomial of at most 256 coefficients to R keeps the data sound. -/
theorem State.dataSound_setR {s : State} (hs : s.dataSound) {p : List Byte} (hp : p.head? ≠ some 0)
    (hl : p.length ≤ 256) : (s.setR p).dataSound := by
  obtain ⟨⟨hA, hB, -, hIn, hOut, hG⟩, -⟩ := hs
  have hR : (s.setR p).polyR.sound Config.pMax :=
    Memory.sound_writeFrom (Memory.sound_unwritten _ _) (by simpa [Config.pMax] using hl)
  exact ⟨⟨hA, hB, hR, hIn, hOut, hG⟩, s.canonicalR_setR hp⟩

/-- A GRID memory and a GRID_VER stored together keep the data sound. -/
theorem State.dataSound_grid {s : State} (hs : s.dataSound) {g : Board} {dim : Nat} (hg : g.shape dim) (hd : dim ≤ 177)
    (v : BitVec 6) : State.dataSound { s with gridVer := v, grid := memoryOf g } := by
  obtain ⟨⟨hA, hB, hR, hIn, hOut, -⟩, hcanon⟩ := hs
  exact ⟨⟨hA, hB, hR, hIn, hOut, gridSound_memoryOf hg hd⟩, hcanon⟩

/-- A destination that takes an unspecified value keeps the data sound; R stays a canonical polynomial (log 5). -/
theorem State.dataSound_spoilOne {s : State} (hs : s.dataSound) (d : Dest) : (s.spoilOne d).dataSound := by
  refine ⟨State.memoriesSound_spoilOne hs.1 d, ?_⟩
  by_cases hd : Dest.regR = d
  · subst hd
    refine s.canonicalR_setR ?_
    rw [List.head?_take, if_neg (by decide)]
    exact head_canon _
  · exact State.canonicalR_of_unchanged ((s.spoilOne_frame d).1 .regR (by simpa using hd)) hs.2

theorem State.dataSound_spoil (ds : List Dest) : ∀ {s : State}, s.dataSound → (s.spoil ds).dataSound := by
  induction ds with
  | nil => intro s hs; exact hs
  | cons d t ih => intro s hs; exact ih (State.dataSound_spoilOne hs d)

theorem State.dataSound_reset : State.reset.dataSound := ⟨memoriesSound_reset, fun h => absurd rfl h⟩

theorem State.dataSound_hardReset (s : State) : s.hardReset.dataSound :=
  ⟨⟨Memory.sound_unwritten _ _, Memory.sound_unwritten _ _, Memory.sound_unwritten _ _, Memory.sound_unwritten _ _,
    Memory.sound_unwritten _ _, Memory.gridSound_unwritten _⟩, fun h => absurd rfl h⟩

theorem State.dataSound_resetRegisters {s : State} (hs : s.dataSound) : s.resetRegisters.dataSound :=
  ⟨hs.1, fun h => absurd rfl h⟩

theorem State.dataSound_softReset {s : State} (hs : s.dataSound) : s.softReset.dataSound := by
  unfold State.softReset
  split
  · exact State.dataSound_resetRegisters hs
  · exact State.dataSound_resetRegisters (State.dataSound_spoil _ hs)

end Sys2Proof.Machine
end

section
/-! SUPPORT. How a command ends: with the data it has prepared, or with an error and its destinations unspecified. -/

namespace Sys2Proof.Machine

/-- `u` is `s` with the results of a command: the error fields are those of `s`, and the data stays sound. -/
def State.prepares (s u : State) : Prop :=
  u.err = s.err ∧ u.errCode = s.errCode ∧ u.errInfo = s.errInfo ∧ (s.dataSound → u.dataSound)

/-- The two ways command `i` ends from `s` (60_exceptions.md R307, R308). -/
def commandEnds (i : Instr) (s : State) (o : Host.Outcome State Fault Refusal) : Prop :=
  (∃ u, o = u.complete ∧ s.prepares u) ∨ ∃ e, o = s.failUnspecified i e

theorem commandEnds_complete {i : Instr} {s u : State} (h : s.prepares u) : commandEnds i s u.complete :=
  .inl ⟨u, rfl, h⟩

theorem commandEnds_fail (i : Instr) (s : State) (e : CmdError) : commandEnds i s (s.failUnspecified i e) :=
  .inr ⟨e, rfl⟩

theorem prepares_refl (s : State) : s.prepares s := ⟨rfl, rfl, rfl, id⟩

theorem prepares_setR (s : State) {p : List Byte} (hp : p.head? ≠ some 0) (hl : p.length ≤ 256) :
    s.prepares (s.setR p) :=
  ⟨rfl, rfl, rfl, fun hs => State.dataSound_setR hs hp hl⟩

theorem prepares_grid (s : State) {g : Board} {dim : Nat} (hg : g.shape dim) (hd : dim ≤ 177) (v : BitVec 6) :
    s.prepares { s with gridVer := v, grid := memoryOf g } :=
  ⟨rfl, rfl, rfl, fun hs => State.dataSound_grid hs hg hd v⟩

/-- AUTOBUILD stores its results beside the area (44_mapper.md R282). -/
theorem prepares_autobuild (s : State) {g : Board} {dim : Nat} (hg : g.shape dim) (hd : dim ≤ 177) (v : BitVec 6)
    (ts : Vector Word 8) (r0 r1 : Word) :
    s.prepares { s with trialScore := ts, gridVer := v, grid := memoryOf g, res0 := r0, res1 := r1 } :=
  ⟨rfl, rfl, rfl, fun hs => State.dataSound_grid hs hg hd v⟩

/-! ### The field unit -/

theorem execGfLog_ends (a : Byte) (s : State) : commandEnds (.gfLog a) s (execGfLog a s) := by
  unfold execGfLog
  split
  · exact commandEnds_fail _ _ _
  · exact commandEnds_complete ⟨rfl, rfl, rfl, id⟩

theorem execGfMul_ends (a b : Byte) (s : State) : commandEnds (.gfMul a b) s (execGfMul a b s) := by
  unfold execGfMul
  split
  · exact commandEnds_fail _ _ _
  · split
    · exact commandEnds_fail _ _ _
    · exact commandEnds_complete ⟨rfl, rfl, rfl, id⟩

/-! ### The polynomial engine -/

/-- The length check leaves polynomial registers of at most 256 elements (41_poly.md R161). -/
theorem lengthCheck_ok {s : State} {u : Unit} (h : s.lengthCheck = .ok u) :
    s.aLen.toNat ≤ 256 ∧ s.bLen.toNat ≤ 256 := by
  unfold State.lengthCheck Config.pMax at h
  split_ifs at h
  omega

/-- A product that POLY_MUL writes is canonical and fits R. -/
theorem polyMulResult_ok {s : State} {p : List Byte} (h : polyMulResult s = .ok p) :
    p.head? ≠ some 0 ∧ p.length ≤ 256 := by
  unfold polyMulResult at h
  split at h
  · cases h
  · simp only [] at h
    split_ifs at h with ha hb hlen
    split at h
    · cases h
    · split at h
      · cases h
      · cases h
        have hprod := length_polyProduct (List.ne_nil_of_length_pos (Nat.pos_of_ne_zero hb))
          (List.ne_nil_of_length_pos (Nat.pos_of_ne_zero ha))
        refine ⟨head_canon _, (length_canon_le _).trans ?_⟩
        unfold Config.pMax at hlen
        omega

/-- A remainder that POLY_MOD writes is canonical and fits R. -/
theorem polyModResult_ok {s : State} {p : List Byte} (h : polyModResult s = .ok p) :
    p.head? ≠ some 0 ∧ p.length ≤ 256 := by
  unfold polyModResult at h
  split at h
  · cases h
  · rename_i hcheck
    obtain ⟨-, hbLen⟩ := lengthCheck_ok hcheck
    have hp : s.operandB.length ≠ 0 ∧ pmod s.operandA s.operandB = p := by
      simp only [] at h
      split_ifs at h with hb hshort
      · exact ⟨hb, Except.ok.inj h⟩
      · split at h
        · cases h
        · exact ⟨hb, Except.ok.inj h⟩
    obtain ⟨hb, rfl⟩ := hp
    have hlt : (pmod s.operandA s.operandB).length < s.operandB.length :=
      length_pmod (head_canon _) (head_canon _) (List.ne_nil_of_length_pos (Nat.pos_of_ne_zero hb))
    exact ⟨head_pmodLoop _ _ _ (head_canon _), by have := s.length_operandB; omega⟩

theorem execPolyMul_ends (s : State) : commandEnds .polyMul s (execPolyMul s) := by
  unfold execPolyMul
  split
  · exact commandEnds_fail _ _ _
  · rename_i h
    obtain ⟨hhead, hlen⟩ := polyMulResult_ok h
    exact commandEnds_complete (prepares_setR s hhead hlen)

theorem execPolyMod_ends (s : State) : commandEnds .polyMod s (execPolyMod s) := by
  unfold execPolyMod
  split
  · exact commandEnds_fail _ _ _
  · rename_i h
    obtain ⟨hhead, hlen⟩ := polyModResult_ok h
    exact commandEnds_complete (prepares_setR s hhead hlen)

/-- A generator does not begin with 0 (41_poly.md R169). -/
theorem head_genpoly (k : Nat) : (genpoly k).head? ≠ some 0 := by
  obtain ⟨-, hlead⟩ := genpoly_spec k
  intro h
  rw [List.getD_eq_getElem?_getD, ← List.head?_eq_getElem?, h] at hlead
  cases hlead

theorem execPolyGen_ends (k : Byte) (s : State) : commandEnds (.polyGen k) s (execPolyGen k s) :=
  commandEnds_complete (prepares_setR s (head_genpoly _) (by have := k.isLt; have := genpoly_spec k.toNat; omega))

/-- The coefficients of R fit a polynomial register. -/
theorem sound_writeFrom_coeffsR {m : Memory Byte} (h : m.sound Config.pMax) (s : State) :
    (m.writeFrom 0 s.coeffsR).sound Config.pMax := by
  refine Memory.sound_writeFrom h ?_
  have := s.rLen.isLt
  simp only [State.coeffsR, State.length_elems, Config.pMax]
  omega

theorem execPolyMoveRA_ends (s : State) : commandEnds .polyMoveRA s (execPolyMoveRA s) := by
  refine commandEnds_complete ⟨rfl, rfl, rfl, ?_⟩
  rintro ⟨⟨hA, hB, hR, hIn, hOut, hG⟩, hcanon⟩
  exact ⟨⟨sound_writeFrom_coeffsR hA s, hB, hR, hIn, hOut, hG⟩, hcanon⟩

theorem execPolyMoveRB_ends (s : State) : commandEnds .polyMoveRB s (execPolyMoveRB s) := by
  refine commandEnds_complete ⟨rfl, rfl, rfl, ?_⟩
  rintro ⟨⟨hA, hB, hR, hIn, hOut, hG⟩, hcanon⟩
  exact ⟨⟨hA, sound_writeFrom_coeffsR hB s, hR, hIn, hOut, hG⟩, hcanon⟩

/-! ### The Reed-Solomon encoder -/

theorem execRsEncode_ends (s : State) : commandEnds .rsEncode s (execRsEncode s) := by
  unfold execRsEncode
  split
  · exact commandEnds_fail _ _ _
  · rename_i bs h
    have hlen := length_rsCodewords_le (blocksSound_of_rsEncodeCheck h) (s.length_elems .cwIn (capacityOf bs))
    refine commandEnds_complete ⟨rfl, rfl, rfl, ?_⟩
    rintro ⟨⟨hA, hB, hR, hIn, hOut, hG⟩, hcanon⟩
    exact ⟨⟨hA, hB, hR, hIn, Memory.sound_writeFrom hOut (by unfold Config.cwMax; omega), hG⟩, hcanon⟩

/-! ### The grid commands -/

/-- A version that passes the check has an area inside the 177 x 177 grid. -/
theorem dimOf_le_of_cfgVersion {s : State} {v : BitVec 6} (h : s.cfgVersion = .ok v) : dimOf v.toNat ≤ 177 := by
  unfold State.cfgVersion at h
  split_ifs at h with hv
  cases h
  unfold dimOf
  omega

theorem dimOf_le_of_buildCheck {s : State} {v : BitVec 6} (h : s.buildCheck = .ok v) : dimOf v.toNat ≤ 177 := by
  unfold State.buildCheck at h
  split at h
  · cases h
  · rename_i v' hv
    split_ifs at h
    cases h
    exact dimOf_le_of_cfgVersion hv

theorem prepares_setBoard (s : State) {g : Board} (hg : g.shape s.dim) : s.prepares (s.setBoard g) :=
  prepares_grid s hg s.dim_le s.gridVer

/-- A placing command ends well when its pattern keeps the shape of the area. -/
theorem withGrid_ends (i : Instr) (s : State) {f : Board → Board} (hf : (f s.board).shape s.dim) :
    commandEnds i s (s.withGrid i f) := by
  unfold State.withGrid
  split
  · exact commandEnds_fail _ _ _
  · exact commandEnds_complete (prepares_setBoard s hf)

theorem execGridClear_ends (s : State) : commandEnds .gridClear s (execGridClear s) := by
  unfold execGridClear
  split
  · exact commandEnds_fail _ _ _
  · rename_i v h
    exact commandEnds_complete (prepares_grid s (Board.shape_empty _) (dimOf_le_of_cfgVersion h) v)

theorem execMapData_ends (s : State) : commandEnds .mapData s (execMapData s) := by
  unfold execMapData
  split
  · exact commandEnds_fail _ _ _
  · split
    · exact commandEnds_fail _ _ _
    · exact commandEnds_complete (prepares_setBoard s (shape_mapCodewords s.shape_board))

theorem execScore_ends (s : State) : commandEnds .score s (execScore s) := by
  unfold execScore
  split
  · exact commandEnds_fail _ _ _
  · split
    · exact commandEnds_fail _ _ _
    · exact commandEnds_complete ⟨rfl, rfl, rfl, id⟩

theorem execBuild_ends (s : State) : commandEnds .build s (execBuild s) := by
  unfold execBuild
  split
  · exact commandEnds_fail _ _ _
  · rename_i v h
    exact commandEnds_complete (prepares_grid s (shape_buildBoard _ _ _ _ _) (dimOf_le_of_buildCheck h) v)

theorem execAutobuild_ends (s : State) : commandEnds .autobuild s (execAutobuild s) := by
  unfold execAutobuild
  split
  · exact commandEnds_fail _ _ _
  · rename_i v h
    exact commandEnds_complete (prepares_autobuild s (shape_buildBoard _ _ _ _ _) (dimOf_le_of_buildCheck h) v _ _ _)

/-! ### Every command -/

/-- Every command, from every state, ends in one of the two ways. -/
theorem exec_ends (i : Instr) (s : State) : commandEnds i s (exec i s) := by
  cases i with
  | nop => exact commandEnds_complete (prepares_refl s)
  | gfExp n => exact commandEnds_complete ⟨rfl, rfl, rfl, id⟩
  | gfLog a => exact execGfLog_ends a s
  | gfMul a b => exact execGfMul_ends a b s
  | polyMul => exact execPolyMul_ends s
  | polyMod => exact execPolyMod_ends s
  | polyGen k => exact execPolyGen_ends k s
  | polyMoveRA => exact execPolyMoveRA_ends s
  | polyMoveRB => exact execPolyMoveRB_ends s
  | rsEncode => exact execRsEncode_ends s
  | gridClear => exact execGridClear_ends s
  | placeFinder => exact withGrid_ends _ s (shape_placeFinders s.shape_board)
  | placeAlign => exact withGrid_ends _ s (shape_placeAlignments s.shape_board)
  | placeTiming => exact withGrid_ends _ s (shape_placeTimings s.shape_board)
  | placeFormat => exact withGrid_ends _ s (shape_placeFormats s.shape_board)
  | placeVersion => exact withGrid_ends _ s (shape_placeVersions s.shape_board)
  | mapData => exact execMapData_ends s
  | score => exact execScore_ends s
  | build => exact execBuild_ends s
  | autobuild => exact execAutobuild_ends s

end Sys2Proof.Machine
end

section
/-! SUPPORT. Every step keeps the invariant: a completion, and every host action that lands. -/

namespace Sys2Proof.Machine

theorem State.inv_iff (s : State) : s.Inv ↔ s.dataSound ∧ s.pendingClear ∧ s.statusSound := and_assoc.symm

/-! ### Completions -/

/-- The status that acceptance leaves (60_exceptions.md R306). -/
def State.statusClear (s : State) : Prop := s.done = false ∧ s.err = false ∧ s.errCode = .none ∧ s.errInfo = 0

theorem State.statusClear_of_busy {s : State} (h : s.pendingClear) {w : Word} {n : Nat} (hb : s.seq = .busy w n) :
    s.statusClear := by
  rcases h with hi | ⟨-, hclear⟩
  · rw [hb] at hi; cases hi
  · exact hclear

/-- A completion without an error meets the invariant. -/
theorem State.inv_complete {s u t : State} (hs : s.dataSound) (hc : s.statusClear) (hu : s.prepares u)
    (ht : u.complete = .next t) : t.Inv := by
  obtain ⟨-, herr, hcode, hinfo⟩ := hc
  obtain ⟨uerr, ucode, uinfo, udata⟩ := hu
  cases ht
  refine (State.inv_iff _).2 ⟨udata hs, .inl rfl, ?_, fun _ => ⟨ucode.trans hcode, uinfo.trans hinfo⟩, ?_⟩
  · rintro ⟨-, h⟩
    exact absurd (h.symm.trans (uerr.trans herr)) (by decide)
  · intro h
    exact absurd (h.symm.trans (uerr.trans herr)) (by decide)

/-- A completion with an error meets the invariant. -/
theorem State.inv_raise {s t : State} (hs : s.dataSound) (hd : s.done = false) {e : CmdError}
    (ht : s.raise e = .next t) : t.Inv := by
  cases ht
  refine (State.inv_iff _).2 ⟨hs, .inl rfl, ?_, ?_, fun _ => e.code_ne_none⟩
  · rintro ⟨h, -⟩
    exact absurd (h.symm.trans hd) (by decide)
  · intro h
    exact absurd (h.symm.trans hd) (by decide)

/-- The completion of a pending word meets the invariant, whatever the word. -/
theorem State.inv_runWord {s t : State} (hs : s.dataSound) (hc : s.statusClear) {w : Word} (ht : s.runWord w = .next t) :
    t.Inv := by
  rcases s.runWord_cases w with ⟨i, -, hrun⟩ | ⟨e, -, hrun⟩
  · rw [hrun] at ht
    rcases exec_ends i s with ⟨u, hu, hprep⟩ | ⟨e, hfail⟩
    · exact State.inv_complete hs hc hprep (hu ▸ ht)
    · exact State.inv_raise (State.dataSound_spoil _ hs) ((s.spoil_status _).2.1.trans hc.1) (hfail ▸ ht)
  · exact State.inv_raise hs hc.1 (hrun ▸ ht)

/-! ### Host actions -/

/-- An address of an element names one that the memory has (20_memory.md R84). -/
theorem targetOf_element {a : BusAddr} {id : MemId} {k : Nat} :
    targetOf a = .element id k → k < Config.memSize id := by
  unfold targetOf targetOfIndex
  generalize a.toNat / 4 = n
  repeat'
    refine iteInduction (motive := fun t => t = Target.element id k → k < Config.memSize id)
      (fun _ => ?_) (fun _ => ?_)
  all_goals intro h; cases h
  all_goals dsimp only [Config.memSize, Config.pMax, Config.cwMax]; omega

/-- An idle state whose status flags are all 0 meets the invariant when its data is sound. -/
theorem State.inv_of_idle {s : State} (hs : s.dataSound) (hi : s.seq = .idle) (hd : s.done = false) (he : s.err = false) :
    s.Inv := by
  refine (State.inv_iff s).2 ⟨hs, .inl hi, ?_, ?_, ?_⟩ <;> simp [hd, he]

theorem State.inv_hardReset (s : State) : s.hardReset.Inv := State.inv_of_idle s.dataSound_hardReset rfl rfl rfl

theorem State.inv_softReset {s : State} (hs : s.dataSound) : s.softReset.Inv := by
  have h := State.dataSound_softReset hs
  cases hq : s.seq with
  | idle =>
    rw [State.softReset, hq] at h ⊢
    exact State.inv_of_idle h rfl rfl rfl
  | busy w n =>
    rw [State.softReset, hq] at h ⊢
    exact State.inv_of_idle h rfl rfl rfl

theorem State.inv_writeCtrl {s : State} (h : s.Inv) (v : Word) : (s.writeCtrl v).Inv := by
  unfold State.writeCtrl
  split
  · exact State.inv_softReset ((State.inv_iff s).1 h).1
  · exact h

/-- Clearing DONE or ERR keeps the invariant (10_state.md R33). -/
theorem State.inv_writeStatus {s : State} (h : s.Inv) (v : Word) : (s.writeStatus v).Inv := by
  obtain ⟨hdata, hpending, hboth, hdone, herr⟩ := (State.inv_iff s).1 h
  refine (State.inv_iff _).2 ⟨hdata, ?_, ?_, ?_, ?_⟩
  · rcases hpending with hi | ⟨hlast, d, e, hcode, hinfo⟩
    · exact .inl hi
    · exact .inr ⟨hlast, by simp [d], by simp [e], hcode, hinfo⟩
  · rintro ⟨d, e⟩
    exact hboth ⟨(Bool.and_eq_true_iff.1 d).1, (Bool.and_eq_true_iff.1 e).1⟩
  · exact fun d => hdone (Bool.and_eq_true_iff.1 d).1
  · exact fun e => herr (Bool.and_eq_true_iff.1 e).1

/-- Acceptance leaves the word pending and the status clear (60_exceptions.md R306). -/
theorem State.inv_accept {s : State} (hs : s.dataSound) (w : Word) : (s.accept w).Inv := by
  refine (State.inv_iff _).2 ⟨hs, .inr ⟨?_, rfl, rfl, rfl, rfl⟩, ?_, ?_, ?_⟩ <;> simp [Sequencer.pendingIs]

theorem State.inv_writeElement {s : State} (h : s.Inv) {id : MemId} {k : Nat} (hk : k < Config.memSize id) (v : Word) :
    (s.writeElement id k v).Inv := by
  obtain ⟨⟨hA, hB, hR, hIn, hOut, hG⟩, hrest⟩ := h
  cases id with
  | polyA => exact ⟨⟨Memory.sound_write hA hk _, hB, hR, hIn, hOut, hG⟩, hrest⟩
  | polyB => exact ⟨⟨hA, Memory.sound_write hB hk _, hR, hIn, hOut, hG⟩, hrest⟩
  | polyR => exact ⟨⟨hA, hB, hR, hIn, hOut, hG⟩, hrest⟩
  | cwIn => exact ⟨⟨hA, hB, hR, Memory.sound_write hIn hk _, hOut, hG⟩, hrest⟩
  | cwOut => exact ⟨⟨hA, hB, hR, hIn, Memory.sound_write hOut hk _, hG⟩, hrest⟩

theorem State.inv_writeCell {s : State} (h : s.Inv) (r c : Nat) (v : Word) : (s.writeCell r c v).Inv := by
  unfold State.writeCell
  split
  · rename_i hrc
    obtain ⟨⟨hA, hB, hR, hIn, hOut, hG⟩, hrest⟩ := h
    have := s.dim_le
    exact ⟨⟨hA, hB, hR, hIn, hOut, Memory.gridSound_write hG (by omega) (by omega) _⟩, hrest⟩
  · exact h

theorem State.inv_writeIdle {s : State} (h : s.Inv) (v : Word) (a : BusAddr) : (s.writeIdle v (targetOf a)).Inv := by
  cases ht : targetOf a with
  | ctrl => exact State.inv_writeCtrl h v
  | status => exact State.inv_writeStatus h v
  | cmd => exact State.inv_accept ((State.inv_iff s).1 h).1 v
  | element id k => exact State.inv_writeElement h (targetOf_element ht) v
  | cell r c => exact State.inv_writeCell h r c v
  | _ => exact h

theorem State.inv_writeBusy {s : State} (h : s.Inv) (v : Word) (t : Target) : (s.writeBusy v t).Inv := by
  by_cases hc : t = .ctrl
  · subst hc; exact State.inv_writeCtrl h v
  by_cases hs : t = .status
  · subst hs; exact State.inv_writeStatus h v
  rw [s.writeBusy_other v hc hs]
  split <;> exact h

theorem State.inv_busWrite {s : State} (h : s.Inv) (a : BusAddr) (v : Word) : (s.busWrite a v).Inv := by
  unfold State.busWrite
  split
  · exact State.inv_writeBusy h v _
  · exact State.inv_writeIdle h v a

theorem State.inv_busRead {s : State} (h : s.Inv) (a : BusAddr) : (s.busRead a).Inv := by
  unfold State.busRead
  split <;> exact h

theorem State.inv_serve {s : State} (h : s.Inv) (a : HostAction) : (s.serve a).Inv := by
  cases a with
  | read addr => exact State.inv_busRead h addr
  | write addr v => exact State.inv_busWrite h addr v
  | wait => exact State.inv_busRead h statusAddr
  | hardReset => exact s.inv_hardReset

theorem Sequencer.pendingIs_afterLanding (q : Sequencer) (w : Word) : q.afterLanding.pendingIs w = q.pendingIs w := by
  cases q <;> rfl

/-- Taking the next action from the host's list keeps the invariant: the pending word stays. -/
theorem State.inv_takeAction {s : State} (h : s.Inv) (rest : List HostAction) :
    State.Inv { s with seq := s.seq.afterLanding, host := rest } := by
  obtain ⟨hdata, hpending, hstatus⟩ := (State.inv_iff s).1 h
  refine (State.inv_iff _).2 ⟨hdata, ?_, hstatus⟩
  rcases hpending with hi | ⟨hlast, hclear⟩
  · exact .inl (by rw [hi]; rfl)
  · exact .inr ⟨(s.seq.pendingIs_afterLanding s.lastCmd).trans hlast, hclear⟩

theorem State.inv_land {s : State} (h : s.Inv) : s.land.Inv := by
  cases hh : s.host with
  | nil => rw [State.land_nil hh]; exact h
  | cons a rest => rw [State.land_cons hh]; exact State.inv_serve (State.inv_takeAction h rest) a

/-- Settles O60: a step is a completion or lands a host action, and each keeps the invariant. -/
theorem everyStepKeepsTheInvariant : Obligations.EveryStepKeepsTheInvariant := by
  unfold Obligations.EveryStepKeepsTheInvariant
  intro s t h ht
  rcases step_cases s with ⟨-, hstep⟩ | ⟨w, n, hb, -, hstep⟩ | ⟨w, n, -, -, hstep⟩
  · cases hstep.symm.trans ht
    exact State.inv_land h
  · obtain ⟨hdata, hpending, -⟩ := (State.inv_iff s).1 h
    exact State.inv_runWord hdata (State.statusClear_of_busy hpending hb) (hstep.symm.trans ht)
  · cases hstep.symm.trans ht
    exact State.inv_land h

/-- Settles O59: after reset the memories are unwritten, R is empty, nothing is pending and the status is clear. -/
theorem invariantHoldsAtReset : Obligations.InvariantHoldsAtReset :=
  State.inv_of_idle State.dataSound_reset rfl rfl rfl

end Sys2Proof.Machine
end

section
/-! SUPPORT. The registers as a host sees them: STATUS, CFG and the length registers, the values after a hardware reset,
and the grid commands without a grid. -/

namespace Sys2Proof.Machine

/-! ### STATUS -/

/-- BUSY, DONE, ERR and WERR are bits 0 to 3 of STATUS. -/
theorem State.flags_statusWord (s : State) : s.statusWord.getLsbD 0 = s.busy ∧ s.statusWord.getLsbD 1 = s.done ∧
    s.statusWord.getLsbD 2 = s.err ∧ s.statusWord.getLsbD 3 = s.werr := by
  simp only [State.statusWord, BitVec.getLsbD_append, BitVec.getLsbD_ofBool]
  simp

/-- Above the flags, STATUS holds ERR_CODE from bit 8 on. -/
theorem State.getLsbD_statusWord (s : State) {i : Nat} (h : 4 ≤ i) :
    s.statusWord.getLsbD i = if i < 8 then false else s.errCode.number.getLsbD (i - 8) := by
  obtain ⟨n, rfl⟩ : ∃ n, i = n + 4 := ⟨i - 4, by omega⟩
  simp only [State.statusWord, BitVec.getLsbD_append, BitVec.getLsbD_ofBool]
  by_cases hlow : n < 4
  · simp [hlow]
  · have h8 : ¬ n + 4 < 8 := by omega
    by_cases hcode : n - 4 < 4
    · simp [hlow, hcode, h8]
    · simp [hlow, hcode, h8, BitVec.getLsbD_of_ge s.errCode.number (n - 4) (by omega)]

/-- A write to the address of STATUS clears the named flags, idle or BUSY (10_state.md R33). -/
theorem State.busWrite_status (s : State) (v : Word) : s.busWrite 0x00008 v = s.writeStatus v :=
  ite_self _

/-- Settles O54: the flags by their bits, ERR_CODE and the reserved bits through the bits above the flags. -/
theorem statusShowsAndClearsItsFields : Obligations.StatusShowsAndClearsItsFields := by
  unfold Obligations.StatusShowsAndClearsItsFields
  intro s v
  obtain ⟨hbusy, hdone, herr, hwerr⟩ := s.flags_statusWord
  refine ⟨hbusy, hdone, herr, hwerr, ?_, ?_, ?_, s.busWrite_status v⟩ <;>
    refine BitVec.eq_of_getLsbD_eq fun i hi => ?_ <;>
    rw [BitVec.getLsbD_extractLsb', s.getLsbD_statusWord (by omega)]
  · simp [hi]
  · simp [show 4 + i < 8 by omega]
  · simp [BitVec.getLsbD_of_ge s.errCode.number (12 + i - 8) (by omega)]

/-! ### Writable registers -/

/-- The low bits of a word, zero-extended, are the word under a mask. -/
theorem setWidth_extractLsb'_low (v : Word) {k : Nat} (hk : k ≤ 32) :
    (v.extractLsb' 0 k).setWidth 32 = v &&& BitVec.ofNat 32 (2 ^ k - 1) := by
  have hpow : 2 ^ k ≤ 2 ^ 32 := Nat.pow_le_pow_right (by omega) hk
  have hpos := Nat.two_pow_pos k
  apply BitVec.eq_of_toNat_eq
  rw [BitVec.toNat_setWidth, BitVec.extractLsb'_toNat, BitVec.toNat_and, BitVec.toNat_ofNat,
    Nat.mod_eq_of_lt (show 2 ^ k - 1 < 2 ^ 32 by omega), Nat.and_two_pow_sub_one_eq_mod, Nat.shiftRight_zero]
  exact Nat.mod_eq_of_lt ((Nat.mod_lt _ hpos).trans_le hpow)

/-- CFG stores and shows its implemented bits (10_state.md R35). -/
theorem word_cfgOfWord (v : Word) : (cfgOfWord v).word = v &&& 0x0001733F := by
  refine BitVec.eq_of_getLsbD_eq fun i hi => ?_
  simp only [Cfg.word, cfgOfWord, BitVec.getLsbD_append, BitVec.getLsbD_ofBool,
    BitVec.getLsbD_extractLsb', BitVec.getLsbD_and]
  interval_cases i <;> simp

/-- A write to an idle block. -/
theorem State.busWrite_idle {s : State} (h : s.seq = .idle) (a : BusAddr) (v : Word) :
    s.busWrite a v = s.writeIdle v (targetOf a) := by
  simp [State.busWrite, State.busy, h]

/-- Settles O56: an idle write stores the implemented bits, and the masks name them. -/
theorem registerWritesKeepTheirBits : Obligations.RegisterWritesKeepTheirBits := by
  unfold Obligations.RegisterWritesKeepTheirBits
  intro s v hs
  simp only [State.busWrite_idle hs]
  exact ⟨word_cfgOfWord v, setWidth_extractLsb'_low v (by decide), setWidth_extractLsb'_low v (by decide),
    setWidth_extractLsb'_low v (by decide), setWidth_extractLsb'_low v (by decide)⟩

/-! ### Without a grid -/

/-- Without a grid a host sees no cell (10_state.md R43, R49). -/
theorem State.visibleCell_of_no_grid {s : State} (h : s.gridVer = 0) (r c : Nat) : s.visibleCell r c = .unset := by
  simp [State.visibleCell, State.dim, h]

/-- A failed command that writes GRID alone keeps GRID_VER, and so every cell a host can read when there is no grid. -/
theorem failUnspecified_without_grid {s : State} (h : s.gridVer = 0) {i : Instr} (hd : destsOf i = [.grid]) :
    ∃ t, s.failUnspecified i (.rangeVersion 0) = .next t ∧ failed s t .rangeError 0 ∧ onlyWrites [.grid] s t ∧
      ∀ r c, t.busWord (.cell r c) = s.busWord (.cell r c) := by
  obtain ⟨t, ht, hfail, hw⟩ := s.failUnspecified_spec i (.rangeVersion 0)
  rw [hd] at hw
  have hv : t.gridVer = 0 := (hw.1 .gridVer (by decide)).trans h
  refine ⟨t, ht, hfail, hw, fun r c => ?_⟩
  simp only [State.busWord, State.visibleCell_of_no_grid hv, State.visibleCell_of_no_grid h]

/-- Settles O36: each of the six commands fails with GRID as its one destination, and GRID_VER stays 0. -/
theorem gridCommandsNeedAGrid : Obligations.GridCommandsNeedAGrid := by
  unfold Obligations.GridCommandsNeedAGrid
  refine ⟨fun s hs => ?_, fun s h i hi => ?_⟩
  · simp only [State.dim, s.version_eq hs, dimOf]
  · have hexec : exec i s = s.failUnspecified i (.rangeVersion 0) ∧ destsOf i = [.grid] := by
      simp only [List.mem_cons, List.not_mem_nil, or_false] at hi
      rcases hi with rfl | rfl | rfl | rfl | rfl | rfl <;> exact ⟨if_pos h, rfl⟩
    rw [hexec.1]
    exact failUnspecified_without_grid h hexec.2

/-! ### The hardware reset -/

/-- After a reset of the registers every target that is no element reads as in the reset state (10_state.md R55). -/
theorem State.busWord_resetRegisters (s : State) {t : Target} (h : ∀ id k, t ≠ .element id k) :
    s.resetRegisters.busWord t = State.reset.busWord t := by
  cases t with
  | element id k => exact absurd rfl (h id k)
  | cell r c =>
    simp only [State.busWord]
    rw [State.visibleCell_of_no_grid rfl, State.visibleCell_of_no_grid rfl]
  | _ => rfl

/-- Settles O58: `State.reset` and every hardware reset are a reset of the registers, which only elements
tell apart. -/
theorem resetRegistersHoldTheirValues : Obligations.ResetRegistersHoldTheirValues := by
  unfold Obligations.ResetRegistersHoldTheirValues
  intro s r hr
  have h : ∃ u : State, r = u.resetRegisters := by
    simp only [List.mem_cons, List.not_mem_nil, or_false] at hr
    rcases hr with rfl | rfl
    · exact ⟨State.reset, rfl⟩
    · exact ⟨s.hardReset, rfl⟩
  obtain ⟨u, rfl⟩ := h
  refine ⟨rfl, rfl, rfl, fun t ht => ?_⟩
  rw [State.busWord_resetRegisters u (by rintro id k rfl; simp at ht)]
  revert t
  decide

end Sys2Proof.Machine
end

section
/-! SUPPORT. No step stops: a command ends with a next state, and so does a host action. -/

namespace Sys2Proof.Machine

/-- A pending word always completes (93_implementation_defined.md: every command completes). -/
theorem State.runWord_next (s : State) (w : Word) : ∃ t, s.runWord w = .next t := by
  rcases s.runWord_cases w with ⟨i, -, hrun⟩ | ⟨e, -, hrun⟩
  · rcases exec_ends i s with ⟨u, hu, -⟩ | ⟨e, hfail⟩
    · exact ⟨_, hrun.trans hu⟩
    · exact ⟨_, hrun.trans hfail⟩
  · exact ⟨_, hrun⟩

/-- Every state has a next state. -/
theorem step_next (s : State) : ∃ t, step s = .next t := by
  rcases step_cases s with ⟨-, hstep⟩ | ⟨w, n, -, -, hstep⟩ | ⟨w, n, -, -, hstep⟩
  · exact ⟨_, hstep⟩
  · rw [hstep]
    exact s.runWord_next w
  · exact ⟨_, hstep⟩

/-- A step that answers a next state leaves the rest of the run to that state. -/
theorem run_succ {s t : State} (h : step s = .next t) (n : Nat) : core.run (n + 1) s = core.run n t := by
  have hcore : core.step s = .next t := h
  simp only [Host.Core.run, hcore]

/-- Settles O8, by induction on the length of the run: every state has a next state. -/
theorem noStepStops : Obligations.NoStepStops := by
  unfold Obligations.NoStepStops
  intro s n
  induction n generalizing s with
  | zero => exact ⟨s, rfl⟩
  | succ n ih =>
    obtain ⟨u, hu⟩ := step_next s
    rw [run_succ hu]
    exact ih u

end Sys2Proof.Machine
end

section
/-! SUPPORT. The address map read backwards (20_memory.md R84, R85): the word indices of each target, and from them which
addresses a host write can change. -/

namespace Sys2Proof.Machine

/-- Word index `n` = addr[19:2] is one of the target's own (R84; for no target R85). -/
def Target.ownsIndex (n : Nat) : Target → Prop
  | .id => n = 0
  | .ctrl => n = 1
  | .status => n = 2
  | .cmd => n = 3
  | .cfg => n = 4
  | .errInfo => n = 5
  | .lastCmd => n = 6
  | .res0 => n = 8
  | .res1 => n = 9
  | .res2 => n = 10
  | .res3 => n = 11
  | .res4 => n = 12
  | .aLen => n = 16
  | .bLen => n = 17
  | .rLen => n = 18
  | .dataLen => n = 20
  | .cwLen => n = 21
  | .gridVer => n = 22
  | .trialScore m => m < 8 ∧ n = 24 + m
  | .element .polyA k => k < 256 ∧ n = 0x400 + k
  | .element .polyB k => k < 256 ∧ n = 0x500 + k
  | .element .polyR k => k < 256 ∧ n = 0x600 + k
  | .element .cwIn k => k < 4096 ∧ n = 0x1000 + k
  | .element .cwOut k => k < 4096 ∧ n = 0x2000 + k
  | .cell r c => r < 256 ∧ c < 256 ∧ n = 0x10000 + r * 256 + c
  | .unmapped => n = 7 ∨ (13 ≤ n ∧ n ≤ 15) ∨ n = 19 ∨ n = 23 ∨ (32 ≤ n ∧ n < 0x400) ∨ (0x700 ≤ n ∧ n < 0x1000)
      ∨ (0x3000 ≤ n ∧ n < 0x10000) ∨ 0x20000 ≤ n

/-- An address lies among the word indices of the target it names. -/
theorem targetOf_ownsIndex (a : BusAddr) : (targetOf a).ownsIndex (a.toNat / 4) := by
  unfold targetOf targetOfIndex
  generalize a.toNat / 4 = n
  repeat'
    refine iteInduction (motive := Target.ownsIndex n) (fun _ => ?_) (fun _ => ?_)
  all_goals simp only [Target.ownsIndex]; omega

/-- The unmapped word indices are unmapped (R85). -/
theorem targetOf_eq_unmapped_iff (a : BusAddr) :
    targetOf a = .unmapped ↔ Target.ownsIndex (a.toNat / 4) .unmapped := by
  have h := targetOf_ownsIndex a
  refine ⟨fun e => e ▸ h, fun hu => ?_⟩
  simp only [Target.ownsIndex] at hu
  generalize targetOf a = t at h ⊢
  cases t with
  | unmapped => rfl
  | element id k => cases id <;> simp only [Target.ownsIndex] at h <;> omega
  | _ => simp only [Target.ownsIndex] at h; omega

/-- The word indices of the targets that a host write can change (R84). -/
theorem hostWritable_targetOf_iff (a : BusAddr) : hostWritable (targetOf a) = true ↔
    (1 ≤ a.toNat / 4 ∧ a.toNat / 4 ≤ 4) ∨ a.toNat / 4 = 16 ∨ a.toNat / 4 = 17 ∨ a.toNat / 4 = 20 ∨ a.toNat / 4 = 21 ∨
      (0x400 ≤ a.toNat / 4 ∧ a.toNat / 4 < 0x600) ∨ (0x1000 ≤ a.toNat / 4 ∧ a.toNat / 4 < 0x3000) ∨
      (0x10000 ≤ a.toNat / 4 ∧ a.toNat / 4 < 0x20000) := by
  have h := targetOf_ownsIndex a
  generalize targetOf a = t at h ⊢
  cases t with
  | element id k => cases id <;> simp [Target.ownsIndex, hostWritable] at h ⊢ <;> omega
  | _ => simp [Target.ownsIndex, hostWritable] at h ⊢; omega

/-- The addresses of the targets whose host writes do nothing, idle or BUSY (R85): the unmapped ones, ID, ERR_INFO to
RES4, R_LEN, GRID_VER and TRIAL_SCORE, and POLY_R. -/
abbrev ignoresWrites (a : BusAddr) : Prop :=
  targetOf a = .unmapped ∨ a.toNat / 4 = 0 ∨ (0x14 ≤ a.toNat ∧ a.toNat < 0x34) ∨ (0x48 ≤ a.toNat ∧ a.toNat < 0x4C) ∨
    (0x58 ≤ a.toNat ∧ a.toNat < 0x80) ∨ (0x1800 ≤ a.toNat ∧ a.toNat < 0x1C00)

/-- No host write changes a target at such an address. -/
theorem hostWritable_of_ignoresWrites {a : BusAddr} (h : ignoresWrites a) : hostWritable (targetOf a) = false := by
  rw [ignoresWrites, targetOf_eq_unmapped_iff, Target.ownsIndex] at h
  rw [Bool.eq_false_iff, ne_eq, hostWritable_targetOf_iff]
  omega

/-- The addresses whose host writes are dropped while BUSY = 1 (R90): CMD, CFG and the writable lengths, POLY_A and POLY_B,
CW_IN and CW_OUT, and GRID. -/
abbrev dropsBusyWrites (a : BusAddr) : Prop :=
  a.toNat / 4 ∈ [0x0C / 4, 0x10 / 4, 0x40 / 4, 0x44 / 4, 0x50 / 4, 0x54 / 4] ∨ (0x1000 ≤ a.toNat ∧ a.toNat < 0x1800)
    ∨ (0x4000 ≤ a.toNat ∧ a.toNat < 0xC000) ∨ (0x40000 ≤ a.toNat ∧ a.toNat < 0x80000)

/-- A target at such an address is writable, and neither CTRL nor STATUS. -/
theorem hostWritable_of_dropsBusyWrites {a : BusAddr} (h : dropsBusyWrites a) :
    hostWritable (targetOf a) = true ∧ targetOf a ≠ .ctrl ∧ targetOf a ≠ .status := by
  have hi := targetOf_ownsIndex a
  simp only [dropsBusyWrites, List.mem_cons, List.not_mem_nil, or_false] at h
  refine ⟨(hostWritable_targetOf_iff a).2 (by omega), fun e => ?_, fun e => ?_⟩ <;>
    rw [e, Target.ownsIndex] at hi <;> omega

end Sys2Proof.Machine
end

section
/-! SUPPORT. Host accesses as steps (20_memory.md R82 to R90), idle and while BUSY. -/

namespace Sys2Proof.Machine

/-! ### The step that lets an access land -/

/-- An idle block lets the host's next action take effect. -/
theorem step_idle_cons {s : State} {a : HostAction} {rest : List HostAction} (h : s.seq = .idle)
    (hh : s.host = a :: rest) : step s = .next (State.serve { s with host := rest } a) := by
  have hseq : s.seq.afterLanding = s.seq := by rw [h]; rfl
  rw [step_idle h, State.land_cons hh, hseq]

/-- While landings are left, a host action takes effect before the completion. -/
theorem step_busy_cons {s : State} {w : Word} {n : Nat} {a : HostAction} {rest : List HostAction}
    (h : s.seq = .busy w (n + 1)) (hh : s.host = a :: rest) (hc : completesNow (n + 1) (a :: rest) = false) :
    step s = .next (State.serve { s with seq := .busy w n, host := rest } a) := by
  rw [step_lands h (hh ▸ hc), State.land_cons hh, h]
  rfl

/-! ### Reads -/

/-- An idle read puts the target's word on the bus (R87). -/
theorem State.busRead_idle {s : State} (h : s.seq = .idle) (a : BusAddr) :
    s.busRead a = { s with busData := s.busWord (targetOf a) } := by
  simp [State.busRead, State.busy, h]

/-- A read of a target that R90 lets a host read while BUSY. -/
theorem State.busRead_readable (s : State) {a : BusAddr} (h : readableWhileBusy (targetOf a) = true) :
    s.busRead a = { s with busData := s.busWord (targetOf a) } := by
  simp [State.busRead, h]

/-- Any other read while BUSY puts a free word on the bus (R90; log 7). -/
theorem State.busRead_unreadable {s : State} {w : Word} {n : Nat} (hb : s.seq = .busy w n) {a : BusAddr}
    (h : readableWhileBusy (targetOf a) = false) :
    s.busRead a = { s with busData := Config.freeRead s.draws, draws := s.draws + 1 } := by
  simp [State.busRead, State.busy, hb, h]

theorem mem_readable_iff (t : Target) :
    t ∈ [.id, .ctrl, .status, .cfg, .lastCmd, .unmapped] ↔ readableWhileBusy t = true := by
  cases t <;> simp [readableWhileBusy]

/-- What a target holds does not depend on the host's next actions. -/
theorem State.busWord_host (s : State) (l : List HostAction) (t : Target) :
    State.busWord { s with host := l } t = s.busWord t := by
  cases t <;> rfl

/-- Settles O50: an idle step lets the read land, and the constants follow from the address map. -/
theorem idleReadsHaveNoSideEffect : Obligations.IdleReadsHaveNoSideEffect := by
  unfold Obligations.IdleReadsHaveNoSideEffect
  intro s a rest hs hh
  refine ⟨?_, ?_, fun ha => ?_⟩
  · rw [step_idle_cons hs hh, State.serve, State.busRead_idle (s := { s with host := rest }) hs, s.busWord_host]
  · rintro (ht | ht) <;> rw [ht] <;> rfl
  · have h0 : a.toNat / 4 = 0 := by omega
    have ht : targetOf a = .id := by rw [targetOf, h0]; rfl
    rw [ht]
    rfl

/-! ### Writes -/

/-- An idle write to a target that no host write changes is ignored (R85). -/
theorem State.writeIdle_ignored (s : State) (v : Word) {t : Target} (h : hostWritable t = false) :
    s.writeIdle v t = s := by
  cases t with
  | ctrl | status | cmd | cfg | aLen | bLen | dataLen | cwLen | cell => cases h
  | element id k =>
    obtain rfl : id = .polyR := by simpa [hostWritable] using h
    rfl
  | _ => rfl

/-- A write while a command is pending. -/
theorem State.busWrite_busy {s : State} {w : Word} {n : Nat} (h : s.seq = .busy w n) (a : BusAddr) (v : Word) :
    s.busWrite a v = s.writeBusy v (targetOf a) := by
  simp [State.busWrite, State.busy, h]

/-- Settles O51: the address map read backwards gives the unmapped offsets and the targets that ignore writes. -/
theorem unmappedAndReadOnlyWritesAreIgnored : Obligations.UnmappedAndReadOnlyWritesAreIgnored := by
  unfold Obligations.UnmappedAndReadOnlyWritesAreIgnored
  refine ⟨fun a => ?_, fun s a v rest hs hh ha => ?_⟩
  · rw [targetOf_eq_unmapped_iff]
    simp only [Target.ownsIndex]
    omega
  · rw [step_idle_cons hs hh, State.serve, State.busWrite_idle (s := { s with host := rest }) hs,
      State.writeIdle_ignored _ v (hostWritable_of_ignoresWrites ha)]

/-- Settles O52: the access lands before the completion, and the target of its address decides what it does. -/
theorem busyAccessesFollowTheRule : Obligations.BusyAccessesFollowTheRule := by
  unfold Obligations.BusyAccessesFollowTheRule
  intro s w n a v rest hs u
  have hu : u.seq = .busy w n := rfl
  refine ⟨fun hh => ?_, fun hh => ?_⟩
  · have hstep : step s = .next (u.writeBusy v (targetOf a)) := by
      rw [step_busy_cons hs hh (completesNow_write n a v rest), State.serve, State.busWrite_busy hu]
    rw [hstep]
    refine ⟨fun ha => ?_, fun ha => ?_, fun ha => ?_, fun ha => ?_⟩
    · rw [targetOf, ha]; rfl
    · rw [targetOf, ha]; rfl
    · obtain ⟨hw, hctrl, hstatus⟩ := hostWritable_of_dropsBusyWrites ha
      rw [u.writeBusy_other v hctrl hstatus, if_pos hw]
    · rw [u.writeBusy_ignored v (hostWritable_of_ignoresWrites ha)]
  · rw [step_busy_cons hs hh (completesNow_read n a rest), mem_readable_iff, Bool.not_eq_true]
    refine ⟨fun hr => ?_, fun hr => ?_⟩
    · exact congrArg Host.Outcome.next (u.busRead_readable hr)
    · exact ⟨_, congrArg Host.Outcome.next (State.busRead_unreadable hu hr)⟩

end Sys2Proof.Machine
end

section
/-! SUPPORT. Elements and cells written by the host and read back (10_state.md R45 to R49, 20_memory.md R83). -/

namespace Sys2Proof.Machine

/-- An element write stores bits 7:0 in every memory but POLY_R. -/
theorem State.writeElement_eq (s : State) {id : MemId} (h : id ≠ .polyR) (k : Nat) (v : Word) :
    s.writeElement id k v = s.setElem id k (v.extractLsb' 0 8) := by
  cases id with
  | polyR => exact absurd rfl h
  | _ => rfl

/-- A cell after a write to a cell of the active area. -/
theorem State.cell_writeCell (s : State) {r c r' c' : Nat} (hr : r < s.dim) (hc : c < s.dim) (hc' : c' < 256) (v : Word) :
    (s.writeCell r c v).cell r' c' = if r' = r ∧ c' = c then cellOfCode v else s.cell r' c' := by
  have hdim := s.dim_le
  have hkey : gridKey r' c' = gridKey r c ↔ r' = r ∧ c' = c :=
    ⟨gridKey_inj hc' (by omega), fun ⟨er, ec⟩ => by rw [er, ec]⟩
  rw [State.writeCell, if_pos ⟨hr, hc⟩]
  simp only [State.cell, Memory.read_write, hkey]

/-- Outside the active area a cell write is ignored (R49). -/
theorem State.writeCell_outside (s : State) {r c : Nat} (h : s.dim ≤ r ∨ s.dim ≤ c) (v : Word) : s.writeCell r c v = s :=
  if_neg (by omega)

/-- The code of the cell a word stores is the word's bits 1:0, or 0 when bit 1 is 0 (R49). -/
theorem cellCode_cellOfCode (v : Word) : cellCode (cellOfCode v) = if v.getLsbD 1 then v &&& 3 else 0 := by
  have h0 : v.getLsbD 0 = (v.extractLsb' 0 2).getLsbD 0 := by simp
  have h1 : v.getLsbD 1 = (v.extractLsb' 0 2).getLsbD 1 := by simp
  have hlow : v &&& 3 = (v.extractLsb' 0 2).setWidth 32 := (setWidth_extractLsb'_low v (k := 2) (by decide)).symm
  rw [cellOfCode, hlow, h0, h1]
  generalize v.extractLsb' 0 2 = x
  revert x
  decide

/-- A cell of the active area shows what it holds. -/
theorem State.visibleCell_inside {s : State} {r c : Nat} (hr : r < s.dim) (hc : c < s.dim) :
    s.visibleCell r c = s.cell r c := if_pos ⟨hr, hc⟩

/-- Outside the active area a host sees an unset cell (R49, R86). -/
theorem State.visibleCell_outside {s : State} {r c : Nat} (h : s.dim ≤ r ∨ s.dim ≤ c) : s.visibleCell r c = .unset :=
  if_neg (by omega)

/-- Settles O55: what a read returns after a write, for elements and, by the active area, for cells. -/
theorem elementAndCellWritesAreReadBack : Obligations.ElementAndCellWritesAreReadBack := by
  unfold Obligations.ElementAndCellWritesAreReadBack
  intro s a v hs
  rw [State.busWrite_idle hs]
  refine ⟨fun id k ht hid => ?_, fun r c ht => ?_⟩
  · rw [ht, State.writeIdle, s.writeElement_eq hid]
    refine ⟨?_, fun id' k' hne => ?_⟩
    · simp only [State.busWord, State.elem_setElem, and_self, if_true]
    · rw [State.elem_setElem, if_neg (by tauto)]
  · rw [ht, State.writeIdle]
    refine ⟨fun hr hc => ?_, fun r' c' hc' hne => ?_, fun hout => ?_⟩
    · have hdim := s.dim_le
      have hcell : (s.writeCell r c v).cell r c = cellOfCode v := by
        rw [s.cell_writeCell hr hc (by omega), if_pos ⟨rfl, rfl⟩]
      refine ⟨hcell, ?_⟩
      rw [State.busWord, State.visibleCell_inside (by simpa using hr) (by simpa using hc), hcell, cellCode_cellOfCode]
    · by_cases hin : r < s.dim ∧ c < s.dim
      · rw [s.cell_writeCell hin.1 hin.2 hc', if_neg (by omega)]
      · rw [s.writeCell_outside (by omega)]
    · rw [s.writeCell_outside hout, State.busWord, State.visibleCell_outside hout]
      exact ⟨rfl, rfl⟩

end Sys2Proof.Machine
end

section
/-! SUPPORT. The formats of a command word as numbers (30_encoding.md R110, R111): what each field reads, what each encoder
writes, and which words have their reserved bits clear. -/

namespace Sys2Proof

/-! ### Fields -/

theorem toNat_opField (w : Word) : (opField w).toNat = w.toNat % 256 := by
  simp [opField, BitVec.extractLsb'_toNat]

theorem toNat_a8Field (w : Word) : (a8Field w).toNat = w.toNat / 2 ^ 16 % 256 := by
  simp [a8Field, BitVec.extractLsb'_toNat, Nat.shiftRight_eq_div_pow]

theorem toNat_b8Field (w : Word) : (b8Field w).toNat = w.toNat / 2 ^ 24 := by
  simp only [b8Field, BitVec.extractLsb'_toNat, Nat.shiftRight_eq_div_pow]
  omega

theorem toNat_imm16Field (w : Word) : (imm16Field w).toNat = w.toNat / 2 ^ 16 := by
  simp only [imm16Field, BitVec.extractLsb'_toNat, Nat.shiftRight_eq_div_pow]
  omega

/-- A field is 0 when its number is. -/
theorem extractLsb'_beq_zero_iff (w : Word) (start len : Nat) :
    (w.extractLsb' start len == 0) = true ↔ w.toNat / 2 ^ start % 2 ^ len = 0 := by
  rw [beq_iff_eq, ← BitVec.toNat_inj, BitVec.extractLsb'_toNat, Nat.shiftRight_eq_div_pow]
  simp

/-! ### Reserved bits -/

theorem reservedClear_N_iff (w : Word) : reservedClear .N w = true ↔ w.toNat / 256 = 0 := by
  rw [reservedClear, extractLsb'_beq_zero_iff]
  omega

theorem reservedClear_I16_iff (w : Word) : reservedClear .I16 w = true ↔ w.toNat / 256 % 256 = 0 :=
  extractLsb'_beq_zero_iff w 8 8

theorem reservedClear_B2_iff (w : Word) : reservedClear .B2 w = true ↔ w.toNat / 256 % 256 = 0 :=
  extractLsb'_beq_zero_iff w 8 8

theorem reservedClear_B1_iff (w : Word) :
    reservedClear .B1 w = true ↔ w.toNat / 2 ^ 24 = 0 ∧ w.toNat / 256 % 256 = 0 := by
  rw [reservedClear, Bool.and_eq_true, extractLsb'_beq_zero_iff, extractLsb'_beq_zero_iff]
  omega

/-! ### Encoders -/

/-- Appending puts the first vector above the second. -/
theorem toNat_append_eq_add {m n : Nat} (x : BitVec m) (y : BitVec n) : (x ++ y).toNat = x.toNat * 2 ^ n + y.toNat := by
  rw [BitVec.toNat_append, ← Nat.shiftLeft_add_eq_or_of_lt y.isLt, Nat.shiftLeft_eq]

theorem toNat_encodeN (op : Byte) : (encodeN op).toNat = op.toNat := by
  simp only [encodeN, toNat_append_eq_add, BitVec.ofNat_eq_ofNat, BitVec.toNat_ofNat]
  omega

theorem toNat_encodeI16 (imm : BitVec 16) (op : Byte) : (encodeI16 imm op).toNat = imm.toNat * 2 ^ 16 + op.toNat := by
  simp only [encodeI16, toNat_append_eq_add, BitVec.ofNat_eq_ofNat, BitVec.toNat_ofNat]
  omega

theorem toNat_encodeB (b a op : Byte) :
    (encodeB b a op).toNat = b.toNat * 2 ^ 24 + a.toNat * 2 ^ 16 + op.toNat := by
  simp only [encodeB, toNat_append_eq_add, BitVec.ofNat_eq_ofNat, BitVec.toNat_ofNat]
  omega

/-- The word of a format with the fields of `w`, and every reserved bit 0 (R111). -/
def Format.clearReserved (w : Word) : Format → Word
  | .N => encodeN (opField w)
  | .I16 => encodeI16 (imm16Field w) (opField w)
  | .B1 => encodeB 0 (a8Field w) (opField w)
  | .B2 => encodeB (b8Field w) (a8Field w) (opField w)

/-- A word whose reserved bits are 0 is made of its fields. -/
theorem Format.clearReserved_eq {f : Format} {w : Word} (h : reservedClear f w = true) : f.clearReserved w = w := by
  apply BitVec.eq_of_toNat_eq
  cases f with
  | N =>
    rw [reservedClear_N_iff] at h
    rw [clearReserved, toNat_encodeN, toNat_opField]
    omega
  | I16 =>
    rw [reservedClear_I16_iff] at h
    rw [clearReserved, toNat_encodeI16, toNat_imm16Field, toNat_opField]
    omega
  | B1 =>
    rw [reservedClear_B1_iff] at h
    rw [clearReserved, toNat_encodeB, toNat_a8Field, toNat_opField, show (0 : Byte).toNat = 0 from rfl]
    omega
  | B2 =>
    rw [reservedClear_B2_iff] at h
    rw [clearReserved, toNat_encodeB, toNat_b8Field, toNat_a8Field, toNat_opField]
    omega

end Sys2Proof
end

section
/-! SUPPORT. The decoder by its outcomes (30_encoding.md R110, R114 to R116), and what a row of the opcode map says. -/

namespace Sys2Proof

/-! ### The three outcomes -/

theorem decode_of_row {w : Word} {f : Format} {i : Instr} (h : opcodeRow w = some (f, i)) :
    decode w = if reservedClear f w then .ok i else .error .reservedBits := by
  rw [decode, h]

theorem decode_eq_ok_iff {w : Word} {i : Instr} :
    decode w = .ok i ↔ ∃ f, opcodeRow w = some (f, i) ∧ reservedClear f w = true := by
  cases h : opcodeRow w with
  | none => simp [decode, h]
  | some row =>
    obtain ⟨f, j⟩ := row
    rw [decode_of_row h]
    cases hres : reservedClear f w <;> simp [hres]

theorem decode_eq_illegalOpcode_iff (w : Word) : decode w = .error .illegalOpcode ↔ opcodeRow w = none := by
  cases h : opcodeRow w with
  | none => simp [decode, h]
  | some row =>
    rw [decode_of_row h]
    split <;> simp

theorem decode_eq_reservedBits_iff {w : Word} {f : Format} {i : Instr} (h : opcodeRow w = some (f, i)) :
    decode w = .error .reservedBits ↔ ¬ reservedClear f w = true := by
  rw [decode_of_row h]
  split <;> simp [*]

/-! ### The opcode map -/

/-- The format of a legal opcode (R114). -/
def formatOfOpcode (op : Nat) : Format :=
  if op = 0x01 then .I16 else if op = 0x03 then .B2 else if op = 0x02 ∨ op = 0x12 then .B1 else .N

/-- An exponent read from a word is one an assembler accepts (R112, R120). -/
theorem wellFormed_gfExp_toInt (imm : BitVec 16) : WellFormed (.gfExp imm.toInt) := by
  have hle := imm.le_toInt
  have hlt := imm.toInt_lt
  simp only [WellFormed, Instr.wellFormed, Bool.and_eq_true, decide_eq_true_eq]
  omega

/-- A row names the format of its opcode and a well-formed command, whose word has the fields of `w`. -/
theorem opcodeRow_some {w : Word} {f : Format} {i : Instr} (h : opcodeRow w = some (f, i)) :
    f = formatOfOpcode (w.toNat % 256) ∧ WellFormed i ∧ encode i = f.clearReserved w := by
  have hop : opField w = BitVec.ofNat 8 (opField w).toNat := by simp
  rw [← toNat_opField]
  unfold opcodeRow at h
  split at h
  case h_2 heq =>
    cases h
    rw [heq] at hop ⊢
    exact ⟨rfl, wellFormed_gfExp_toInt _, by rw [Format.clearReserved, hop, encode, BitVec.ofInt_toInt]; rfl⟩
  case h_21 => cases h
  all_goals
    rename_i heq
    cases h
    rw [heq] at hop ⊢
    exact ⟨rfl, rfl, by rw [Format.clearReserved, hop]; rfl⟩

/-- The opcodes without a row are those of R115. -/
theorem opcodeRow_eq_none_iff (w : Word) : opcodeRow w = none ↔
    (0x04 ≤ w.toNat % 256 ∧ w.toNat % 256 ≤ 0x0F) ∨ (0x15 ≤ w.toNat % 256 ∧ w.toNat % 256 ≤ 0x1F) ∨
      (0x21 ≤ w.toNat % 256 ∧ w.toNat % 256 ≤ 0x2F) ∨ (0x3A ≤ w.toNat % 256 ∧ w.toNat % 256 ≤ 0xFF) := by
  have hlt : w.toNat % 256 < 256 := Nat.mod_lt _ (by decide)
  rw [← toNat_opField] at hlt ⊢
  unfold opcodeRow
  split
  case h_21 => simp only [imp_false] at *; rw [true_iff]; omega
  all_goals rename_i hop; simp only [hop, reduceCtorEq, false_iff]; decide

/-! ### The row of an encoded command -/

theorem opField_encodeI16 (imm : BitVec 16) (op : Byte) : opField (encodeI16 imm op) = op := by
  apply BitVec.eq_of_toNat_eq
  rw [toNat_opField, toNat_encodeI16]
  omega

theorem imm16Field_encodeI16 (imm : BitVec 16) (op : Byte) : imm16Field (encodeI16 imm op) = imm := by
  apply BitVec.eq_of_toNat_eq
  rw [toNat_imm16Field, toNat_encodeI16]
  omega

theorem opField_encodeB (b a op : Byte) : opField (encodeB b a op) = op := by
  apply BitVec.eq_of_toNat_eq
  rw [toNat_opField, toNat_encodeB]
  omega

theorem a8Field_encodeB (b a op : Byte) : a8Field (encodeB b a op) = a := by
  apply BitVec.eq_of_toNat_eq
  rw [toNat_a8Field, toNat_encodeB]
  omega

theorem b8Field_encodeB (b a op : Byte) : b8Field (encodeB b a op) = b := by
  apply BitVec.eq_of_toNat_eq
  rw [toNat_b8Field, toNat_encodeB]
  omega

theorem reservedClear_encodeI16 (imm : BitVec 16) (op : Byte) : reservedClear .I16 (encodeI16 imm op) = true := by
  rw [reservedClear_I16_iff, toNat_encodeI16]
  omega

theorem reservedClear_encodeB_B2 (b a op : Byte) : reservedClear .B2 (encodeB b a op) = true := by
  rw [reservedClear_B2_iff, toNat_encodeB]
  omega

theorem reservedClear_encodeB_B1 (a op : Byte) : reservedClear .B1 (encodeB 0 a op) = true := by
  rw [reservedClear_B1_iff, toNat_encodeB, show (0 : Byte).toNat = 0 from rfl]
  omega

/-- A 16-bit exponent keeps its value (R112). -/
theorem toInt_ofInt_of_wellFormed {n : Int} (h : WellFormed (.gfExp n)) : (BitVec.ofInt 16 n).toInt = n := by
  simp only [WellFormed, Instr.wellFormed, Bool.and_eq_true, decide_eq_true_eq] at h
  rw [BitVec.toInt_ofInt]
  exact Int.bmod_eq_of_le_mul_two (by omega) (by omega)

/-- The word of a well-formed command lies in the command's row, with its reserved bits 0. -/
theorem opcodeRow_encode {i : Instr} (h : WellFormed i) :
    ∃ f, opcodeRow (encode i) = some (f, i) ∧ reservedClear f (encode i) = true := by
  cases i with
  | gfExp n =>
    refine ⟨.I16, ?_, reservedClear_encodeI16 _ _⟩
    rw [encode, opcodeRow, opField_encodeI16, imm16Field_encodeI16, toInt_ofInt_of_wellFormed h]
    rfl
  | gfLog a =>
    refine ⟨.B1, ?_, reservedClear_encodeB_B1 _ _⟩
    rw [encode, opcodeRow, opField_encodeB, a8Field_encodeB]
    rfl
  | gfMul a b =>
    refine ⟨.B2, ?_, reservedClear_encodeB_B2 _ _ _⟩
    rw [encode, opcodeRow, opField_encodeB, a8Field_encodeB, b8Field_encodeB]
    rfl
  | polyGen k =>
    refine ⟨.B1, ?_, reservedClear_encodeB_B1 _ _⟩
    rw [encode, opcodeRow, opField_encodeB, a8Field_encodeB]
    rfl
  | _ => exact ⟨.N, rfl, rfl⟩

/-! ### Running a word that is no command -/

/-- A word that is no command ends with ILLEGAL_CMD and changes the status alone (R115, R116). -/
theorem Machine.State.runWord_error (s : Machine.State) {w : Word} {e : DecodeError} (h : decode w = .error e) :
    s.runWord w = .next { s with seq := .idle, err := true, errCode := .illegalCmd, errInfo := w } := by
  rw [Machine.State.runWord, h]
  rfl

/-! ### The statements -/

/-- Settles O1: the word of a well-formed command lies in the command's row, with its reserved bits 0. -/
theorem decodeOfEncodeIsTheCommand : Obligations.DecodeOfEncodeIsTheCommand := by
  unfold Obligations.DecodeOfEncodeIsTheCommand
  exact fun i h => decode_eq_ok_iff.2 (opcodeRow_encode h)

/-- Settles O2: a command's row gives its word the fields of `w`, and with the reserved bits 0 that is `w`. -/
theorem encodeOfDecodeIsTheWord : Obligations.EncodeOfDecodeIsTheWord := by
  unfold Obligations.EncodeOfDecodeIsTheWord
  intro w i h
  obtain ⟨f, hrow, hres⟩ := decode_eq_ok_iff.1 h
  obtain ⟨-, hwf, henc⟩ := opcodeRow_some hrow
  exact ⟨hwf, henc.trans (Format.clearReserved_eq hres)⟩

/-- Settles O3: an opcode is illegal when the opcode map has no row for it. -/
theorem illegalOpcodesAreExactlyTheGaps : Obligations.IllegalOpcodesAreExactlyTheGaps := by
  unfold Obligations.IllegalOpcodesAreExactlyTheGaps
  exact ⟨fun w => (decode_eq_illegalOpcode_iff w).trans (opcodeRow_eq_none_iff w), fun s w h => s.runWord_error h⟩

/-- Settles O4: a legal opcode has a row, and the row's format names its reserved bits. -/
theorem reservedBitsAreRefused : Obligations.ReservedBitsAreRefused := by
  unfold Obligations.ReservedBitsAreRefused
  refine ⟨fun w hlegal => ?_, fun s w h => s.runWord_error h⟩
  rw [ne_eq, decode_eq_illegalOpcode_iff] at hlegal
  obtain ⟨⟨f, i⟩, hrow⟩ := Option.ne_none_iff_exists'.1 hlegal
  obtain ⟨hf, -, -⟩ := opcodeRow_some hrow
  dsimp only
  rw [decode_eq_reservedBits_iff hrow, hf, formatOfOpcode]
  by_cases h1 : w.toNat % 256 = 0x01
  · rw [if_pos h1, if_pos (.inl h1), reservedClear_I16_iff]
  by_cases h3 : w.toNat % 256 = 0x03
  · rw [if_neg h1, if_pos h3, if_pos (.inr h3), reservedClear_B2_iff]
  rw [if_neg h1, if_neg h3, if_neg (not_or.2 ⟨h1, h3⟩)]
  by_cases h2 : w.toNat % 256 = 0x02 ∨ w.toNat % 256 = 0x12
  · rw [if_pos h2, if_pos h2, reservedClear_B1_iff]
    exact not_and_or
  · rw [if_neg h2, if_neg h2, reservedClear_N_iff]

/-- Settles O5, by evaluating the decoder on each word. -/
theorem sampleWordsDecode : Obligations.SampleWordsDecode := by
  unfold Obligations.SampleWordsDecode
  exact ⟨rfl, rfl, rfl, rfl, rfl, rfl, rfl, rfl, rfl⟩

end Sys2Proof
end

section
/-! SUPPORT. A command changes at most the destinations of its row (30_encoding.md R117), on success and on error. -/

namespace Sys2Proof.Machine

/-! ### Destinations taken over from another state -/

/-- `s` with one destination as `u` holds it. -/
@[simp] def State.withDest (u s : State) : Dest → State
  | .res0 => { s with res0 := u.res0 }
  | .res1 => { s with res1 := u.res1 }
  | .res2 => { s with res2 := u.res2 }
  | .res3 => { s with res3 := u.res3 }
  | .res4 => { s with res4 := u.res4 }
  | .regR => { s with rLen := u.rLen, polyR := u.polyR }
  | .regA => { s with aLen := u.aLen, polyA := u.polyA }
  | .regB => { s with bLen := u.bLen, polyB := u.polyB }
  | .cwOut => { s with cwOut := u.cwOut }
  | .cwLen => { s with cwLen := u.cwLen }
  | .gridVer => { s with gridVer := u.gridVer }
  | .grid => { s with grid := u.grid }
  | .trialScore => { s with trialScore := u.trialScore }

/-- `s` with the destinations of a list as `u` holds them. -/
def State.withDests (u s : State) (ds : List Dest) : State := ds.foldl u.withDest s

@[simp] theorem State.withDests_nil (u s : State) : u.withDests s [] = s := rfl

@[simp] theorem State.withDests_cons (u s : State) (d : Dest) (ds : List Dest) :
    u.withDests s (d :: ds) = u.withDests (u.withDest s d) ds := rfl

theorem State.withDest_frame (u s : State) (d : Dest) : onlyWrites [d] s (u.withDest s d) := by
  refine ⟨fun x hx => ?_, ?_⟩
  · have hne : x ≠ d := by simpa using hx
    cases d <;> cases x <;>
      first
      | exact absurd rfl hne
      | simp [State.withDest, Dest.unchanged, State.elem, State.mem, State.cell]
  · cases d <;> simp [State.withDest, neverWritten, State.elem, State.mem]

theorem State.withDests_frame (u : State) (ds : List Dest) : ∀ s : State, onlyWrites ds s (u.withDests s ds) := by
  induction ds with
  | nil => exact onlyWrites_refl []
  | cons d t ih =>
    intro s
    exact onlyWrites_trans (onlyWrites_mono (u.withDest_frame s d) (by simp))
      (onlyWrites_mono (ih (u.withDest s d)) (fun x hx => List.mem_cons_of_mem d hx))

/-- A state that is `s` but for the destinations of a list. -/
theorem onlyWrites_of_withDests {ds : List Dest} {s u : State} (h : u.withDests s ds = u) : onlyWrites ds s u :=
  h ▸ u.withDests_frame ds s

/-! ### The two ways a command ends -/

/-- Where the outcome is a next state, it differs from `s` in the destinations of the command's row alone. -/
def writesRow (i : Instr) (s : State) (o : Host.Outcome State Fault Refusal) : Prop :=
  ∀ t, o = .next t → onlyWrites (destsOf i) s t

/-- A failed command makes its destinations unspecified and nothing else (60_exceptions.md R307). -/
theorem writesRow_fail (i : Instr) (s : State) (e : CmdError) : writesRow i s (s.failUnspecified i e) := by
  intro t ht
  obtain ⟨t', ht', -, hw⟩ := s.failUnspecified_spec i e
  cases ht'.symm.trans ht
  exact hw

/-- A completion keeps the frame of the state it completes. -/
theorem writesRow_complete {i : Instr} {s u : State} (hu : onlyWrites (destsOf i) s u) : writesRow i s u.complete := by
  intro t ht
  obtain ⟨t', ht', -, hw⟩ := u.complete_spec
  cases ht'.symm.trans ht
  exact onlyWrites_trans hu (onlyWrites_mono hw (by simp))

/-- A command that completes with its row's destinations replaced. -/
theorem writesRow_of_withDests {i : Instr} {s u : State} (h : u.withDests s (destsOf i) = u) : writesRow i s u.complete :=
  writesRow_complete (onlyWrites_of_withDests h)

/-! ### The commands -/

theorem execGfLog_writesRow (a : Byte) (s : State) : writesRow (.gfLog a) s (execGfLog a s) := by
  unfold execGfLog
  split
  · exact writesRow_fail _ _ _
  · exact writesRow_of_withDests (by simp [destsOf])

theorem execGfMul_writesRow (a b : Byte) (s : State) : writesRow (.gfMul a b) s (execGfMul a b s) := by
  unfold execGfMul
  split
  · exact writesRow_fail _ _ _
  · split
    · exact writesRow_fail _ _ _
    · exact writesRow_of_withDests (by simp [destsOf])

theorem execPolyMul_writesRow (s : State) : writesRow .polyMul s (execPolyMul s) := by
  unfold execPolyMul
  split
  · exact writesRow_fail _ _ _
  · exact writesRow_complete (s.setR_frame _)

theorem execPolyMod_writesRow (s : State) : writesRow .polyMod s (execPolyMod s) := by
  unfold execPolyMod
  split
  · exact writesRow_fail _ _ _
  · exact writesRow_complete (s.setR_frame _)

theorem execRsEncode_writesRow (s : State) : writesRow .rsEncode s (execRsEncode s) := by
  unfold execRsEncode
  split
  · exact writesRow_fail _ _ _
  · exact writesRow_of_withDests (by simp [destsOf])

/-- A placing command writes GRID alone (43_placer.md R220). -/
theorem withGrid_writesRow {i : Instr} (hi : destsOf i = [.grid]) (s : State) (f : Board → Board) :
    writesRow i s (s.withGrid i f) := by
  unfold State.withGrid
  split
  · exact writesRow_fail _ _ _
  · exact writesRow_complete (hi ▸ s.setBoard_frame _)

theorem execGridClear_writesRow (s : State) : writesRow .gridClear s (execGridClear s) := by
  unfold execGridClear
  split
  · exact writesRow_fail _ _ _
  · exact writesRow_of_withDests (by simp [destsOf])

theorem execMapData_writesRow (s : State) : writesRow .mapData s (execMapData s) := by
  unfold execMapData
  split
  · exact writesRow_fail _ _ _
  · split
    · exact writesRow_fail _ _ _
    · exact writesRow_complete (s.setBoard_frame _)

theorem execScore_writesRow (s : State) : writesRow .score s (execScore s) := by
  unfold execScore
  split
  · exact writesRow_fail _ _ _
  · split
    · exact writesRow_fail _ _ _
    · exact writesRow_of_withDests (by simp [destsOf])

theorem execBuild_writesRow (s : State) : writesRow .build s (execBuild s) := by
  unfold execBuild
  split
  · exact writesRow_fail _ _ _
  · exact writesRow_of_withDests (by simp [destsOf])

theorem execAutobuild_writesRow (s : State) : writesRow .autobuild s (execAutobuild s) := by
  unfold execAutobuild
  split
  · exact writesRow_fail _ _ _
  · exact writesRow_of_withDests (by simp [destsOf])

/-- Every command, from every state, writes its row alone. -/
theorem exec_writesRow (i : Instr) (s : State) : writesRow i s (exec i s) := by
  cases i with
  | nop => exact writesRow_complete (onlyWrites_refl _ s)
  | gfExp n => exact writesRow_of_withDests (by simp [destsOf])
  | gfLog a => exact execGfLog_writesRow a s
  | gfMul a b => exact execGfMul_writesRow a b s
  | polyMul => exact execPolyMul_writesRow s
  | polyMod => exact execPolyMod_writesRow s
  | polyGen k => exact writesRow_complete (s.setR_frame _)
  | polyMoveRA => exact writesRow_of_withDests (by simp [destsOf])
  | polyMoveRB => exact writesRow_of_withDests (by simp [destsOf])
  | rsEncode => exact execRsEncode_writesRow s
  | gridClear => exact execGridClear_writesRow s
  | placeFinder => exact withGrid_writesRow rfl s _
  | placeAlign => exact withGrid_writesRow rfl s _
  | placeTiming => exact withGrid_writesRow rfl s _
  | placeFormat => exact withGrid_writesRow rfl s _
  | placeVersion => exact withGrid_writesRow rfl s _
  | mapData => exact execMapData_writesRow s
  | score => exact execScore_writesRow s
  | build => exact execBuild_writesRow s
  | autobuild => exact execAutobuild_writesRow s

/-- Settles O49, by the command: it fails, or completes with the destinations of its row replaced. -/
theorem commandsWriteOnlyTheirRow : Obligations.CommandsWriteOnlyTheirRow := by
  unfold Obligations.CommandsWriteOnlyTheirRow
  exact exec_writesRow

end Sys2Proof.Machine
end

section
/-! SUPPORT. The commands of the field unit (40_gf.md R140 to R149): NOP, GF_EXP, GF_LOG, GF_MUL, each by its outcomes, and
the laws of the product with and without a value. -/

namespace Sys2Proof.Machine

/-! ### Logarithm and product -/

/-- A byte with a logarithm is not 0, and is the power of 2 with that exponent. -/
theorem gexp_of_glog {a : Byte} {l : Nat} (h : glog a = some l) : a ≠ 0 ∧ gexp l = a := by
  have ha : a ≠ 0 := by
    rintro rfl
    cases glog_zero.symm.trans h
  obtain ⟨m, -, hm, hgexp⟩ := glog_spec ha
  cases hm.symm.trans h
  exact ⟨ha, hgexp⟩

theorem gmul_comm (a b : Byte) : gmul a b = gmul b a := by
  unfold gmul
  cases glog a with
  | none => cases glog b <;> rfl
  | some l =>
    cases glog b with
    | none => rfl
    | some m => simp only [Int.add_comm]

theorem gmul_one_right {a : Byte} (ha : a ≠ 0) : gmul a 1 = some a := by
  rw [gmul_eq ha (by decide), fieldProduct_one_right]

/-- The exponents of `a` and of its inverse add up to a full period. -/
theorem gmul_inverse {a : Byte} {l : Nat} (h : glog a = some l) : gmul a (gexp (255 - l)) = some 1 := by
  obtain ⟨ha, rfl⟩ := gexp_of_glog h
  have hperiod : (l : Int) + (255 - l) = 0 + 255 := by omega
  rw [gmul_eq ha (gexp_ne_zero _), fieldProduct_gexp, hperiod, gexp_add_255, gexp_zero]

/-! ### The outcomes of the commands -/

/-- A command that ends in an error changes at most the destinations of its row (60_exceptions.md R307, R308). -/
theorem failsWith_of_failUnspecified {i : Instr} {s : State} {e : CmdError} (h : exec i s = s.failUnspecified i e) :
    failsWith i s e.code e.info (destsOf i) := by
  unfold failsWith
  rw [h]
  exact s.failUnspecified_spec i e

theorem exec_gfLog_of_glog {a : Byte} {l : Nat} (h : glog a = some l) (s : State) :
    exec (.gfLog a) s = .next { s with seq := .idle, done := true, res0 := BitVec.ofNat 32 l } := by
  simp only [exec, execGfLog, h, State.complete]

theorem exec_gfLog_zero (s : State) : exec (.gfLog 0) s = s.failUnspecified (.gfLog 0) (.domain 0 0) := by
  simp only [exec, execGfLog, glog_zero]

/-- The power of 2 that GF_MUL answers is the product modulo 0x11D (R147). -/
theorem exec_gfMul_of_ne_zero {a b : Byte} (ha : a ≠ 0) (hb : b ≠ 0) (s : State) :
    exec (.gfMul a b) s = .next { s with seq := .idle, done := true, res0 := wordOfByte (fieldProduct a b) } := by
  obtain ⟨l, -, hl, rfl⟩ := glog_spec ha
  obtain ⟨m, -, hm, rfl⟩ := glog_spec hb
  simp only [exec, execGfMul, hl, hm, State.complete, fieldProduct_gexp]

theorem exec_gfMul_zero_left (b : Byte) (s : State) :
    exec (.gfMul 0 b) s = s.failUnspecified (.gfMul 0 b) (.domain 0 0) := by
  simp only [exec, execGfMul, glog_zero]

theorem exec_gfMul_zero_right {a : Byte} (ha : a ≠ 0) (s : State) :
    exec (.gfMul a 0) s = s.failUnspecified (.gfMul a 0) (.domain 1 0) := by
  obtain ⟨l, -, hl, -⟩ := glog_spec ha
  simp only [exec, execGfMul, hl, glog_zero]

/-! ### The statements -/

/-- Settles O9: the tables' recurrence, extended to every integer by the period 255. -/
theorem gexpIsThePowerOfTwo : Obligations.GexpIsThePowerOfTwo := by
  unfold Obligations.GexpIsThePowerOfTwo
  exact ⟨gexp_zero, fun n => ⟨gexp_succ n, gexp_add_255 n, gexp_ne_zero n⟩⟩

/-- Settles O10: GF_EXP stores gexp of its exponent and completes. -/
theorem gfExpWritesTheExponential : Obligations.GfExpWritesTheExponential := by
  unfold Obligations.GfExpWritesTheExponential
  intro n s
  simp only [exec, execGfExp, State.complete, gexp, wordOfByte]

/-- Settles O11: a byte that is not 0 has its logarithm in LOG, and 0 has none. -/
theorem gfLogWritesTheLogarithm : Obligations.GfLogWritesTheLogarithm := by
  unfold Obligations.GfLogWritesTheLogarithm
  refine ⟨fun a s ha => ?_, fun s => failsWith_of_failUnspecified (exec_gfLog_zero s)⟩
  obtain ⟨l, hl, hglog, hgexp⟩ := glog_spec ha
  exact ⟨l, Nat.le_of_lt_succ hl, hgexp, exec_gfLog_of_glog hglog s⟩

/-- Settles O12: powers of 2 multiply by adding their logarithms, and a zero operand has none. -/
theorem gfMulWritesTheFieldProduct : Obligations.GfMulWritesTheFieldProduct := by
  unfold Obligations.GfMulWritesTheFieldProduct
  exact ⟨fun _ _ s ha hb => exec_gfMul_of_ne_zero ha hb s,
    fun b s => failsWith_of_failUnspecified (exec_gfMul_zero_left b s),
    fun _ s ha => failsWith_of_failUnspecified (exec_gfMul_zero_right ha s)⟩

/-- Settles O13, by the logarithms: exponents add, and 255 of them are a full period. -/
theorem fieldLawsHold : Obligations.FieldLawsHold := by
  unfold Obligations.FieldLawsHold
  exact ⟨gmul_comm, fun _ => gmul_one_right, fun _ _ => gmul_inverse⟩

/-- Settles O14: NOP is a completion and nothing more. -/
theorem nopChangesOnlyStatus : Obligations.NopChangesOnlyStatus := by
  unfold Obligations.NopChangesOnlyStatus
  intro s
  simp only [exec, execNop, State.complete]

end Sys2Proof.Machine
end

section
/-! SUPPORT. The algebra of coefficient lists: the coefficients of a product (41_poly.md R163, R164), and the value of a
product at a point, from which the generator has its roots (R170). -/

namespace Sys2Proof.Machine

/-! ### The coefficients of a product -/

/-- Adding 0, in the spelling of the field's lemmas: the literal 0 and not `0#8`. -/
theorem byte_xor_zero (x : Byte) : x ^^^ 0 = x := BitVec.xor_zero

theorem byte_zero_xor (x : Byte) : 0 ^^^ x = x := BitVec.zero_xor

/-- Field addition pulled out of a sum's start value. -/
theorem foldl_xor_start (f : Nat → Byte) (l : List Nat) (x : Byte) :
    l.foldl (fun acc i => acc ^^^ f i) x = x ^^^ l.foldl (fun acc i => acc ^^^ f i) 0 := by
  induction l generalizing x with
  | nil => simp
  | cons i t ih =>
    rw [List.foldl_cons, List.foldl_cons, ih (x ^^^ f i), ih (0 ^^^ f i), byte_zero_xor, BitVec.xor_assoc]

theorem convolution_nil_left (b : List Byte) (k : Nat) : convolution [] b k = 0 := by
  simp only [convolution, List.getD_nil, fieldProduct_zero_left, byte_xor_zero]
  exact List.foldl_fixed _

/-- The first coefficient of the left factor contributes one product to each coefficient; the others contribute as one place
further left. -/
theorem convolution_cons_left (x : Byte) (a b : List Byte) (k : Nat) :
    convolution (x :: a) b k = fieldProduct x (b.getD k 0) ^^^ if k = 0 then 0 else convolution a b (k - 1) := by
  unfold convolution
  rw [List.range_succ_eq_map, List.foldl_cons, foldl_xor_start, List.foldl_map]
  cases k <;> simp

/-- Every coefficient of a product is the sum of its contributing pairs (41_poly.md R163, R164). -/
theorem getD_polyProduct (a b : List Byte) (k : Nat) : (polyProduct a b).getD k 0 = convolution a b k := by
  induction a generalizing k with
  | nil => rw [convolution_nil_left]; rfl
  | cons x t ih =>
    rw [convolution_cons_left, polyProduct, getD_xorFront, getD_map_gterm]
    cases k with
    | zero => rfl
    | succ k => simp [← ih]

/-- The product by its coefficients is the product POLY_MUL accumulates. -/
theorem polyTimes_eq_polyProduct {a b : List Byte} (ha : a ≠ []) (hb : b ≠ []) : polyTimes a b = polyProduct a b := by
  have hlen := length_polyProduct hb ha
  refine List.ext_getElem (by simp [polyTimes, hlen]) fun k _ hk => ?_
  rw [← List.getD_eq_getElem _ 0 hk, getD_polyProduct]
  simp [polyTimes]

/-- The leading term of a product is not 0, so canon removes nothing (41_poly.md R163, corner cases). -/
theorem canon_polyProduct {a b : List Byte} (ha : a ≠ []) (hb : b ≠ []) (ha0 : 0 ∉ a) (hb0 : 0 ∉ b) :
    canon (polyProduct a b) = polyProduct a b := by
  obtain ⟨x, a, rfl⟩ := List.exists_cons_of_ne_nil ha
  obtain ⟨y, b, rfl⟩ := List.exists_cons_of_ne_nil hb
  have hlead : gterm x y ≠ 0 := by
    rw [gterm_eq]
    exact fieldProduct_ne_zero (fun h => ha0 (by simp [h])) (fun h => hb0 (by simp [h]))
  refine canon_of_head? ?_
  simpa [polyProduct, xorFront] using hlead

/-! ### Evaluation -/

/-- One step of Horner's rule. -/
theorem evalAt_concat (p : List Byte) (c z : Byte) : evalAt (p ++ [c]) z = fieldProduct (evalAt p z) z ^^^ c := by
  simp [evalAt]

theorem evalAt_nil (z : Byte) : evalAt [] z = 0 := rfl

theorem evalAt_singleton (x z : Byte) : evalAt [x] z = x := by
  rw [← List.nil_append [x], evalAt_concat, evalAt_nil, fieldProduct_zero_left, byte_zero_xor]

/-- A linear factor of the generator (41_poly.md R169). -/
theorem evalAt_linear (c z : Byte) : evalAt [1, c] z = z ^^^ c := by
  rw [← List.singleton_append, evalAt_concat, evalAt_singleton, fieldProduct_one_left]

/-- Horner's rule from a value already accumulated. -/
def hornerFrom (z acc : Byte) (p : List Byte) : Byte := p.foldl (fun acc c => fieldProduct acc z ^^^ c) acc

theorem evalAt_eq_hornerFrom (p : List Byte) (z : Byte) : evalAt p z = hornerFrom z 0 p := rfl

theorem hornerFrom_cons (z acc c : Byte) (p : List Byte) :
    hornerFrom z acc (c :: p) = hornerFrom z (fieldProduct acc z ^^^ c) p := rfl

theorem hornerStep_xor (z x y c d : Byte) :
    fieldProduct (x ^^^ y) z ^^^ (c ^^^ d) = (fieldProduct x z ^^^ c) ^^^ (fieldProduct y z ^^^ d) := by
  rw [fieldProduct_xor_left, BitVec.xor_assoc, BitVec.xor_assoc, ← BitVec.xor_assoc _ c d, ← BitVec.xor_assoc c _ d,
    BitVec.xor_comm c]

/-- Accumulated values add like the polynomials; the shorter one ends `n` powers of x earlier. -/
theorem hornerFrom_xorFront (z : Byte) (q : List Byte) : ∀ (p : List Byte) (n : Nat) (x y : Byte), p.length + n = q.length →
    hornerFrom z (x ^^^ y) (xorFront p q) = hornerFrom z x (p ++ List.replicate n 0) ^^^ hornerFrom z y q := by
  induction q with
  | nil =>
    intro p n x y h
    obtain ⟨hp, rfl⟩ := Nat.add_eq_zero_iff.1 h
    rw [List.eq_nil_of_length_eq_zero hp]
    rfl
  | cons d q ih =>
    intro p n x y h
    cases p with
    | nil =>
      cases n with
      | zero => simp at h
      | succ n =>
        have hrest := ih [] n (fieldProduct x z ^^^ 0) (fieldProduct y z ^^^ d) (by simpa using h)
        rwa [← hornerStep_xor, xorFront_nil_left, byte_zero_xor] at hrest
    | cons c p =>
      have hlen : p.length + n = q.length := by simp only [List.length_cons] at h; omega
      have hrest := ih p n (fieldProduct x z ^^^ c) (fieldProduct y z ^^^ d) hlen
      rwa [← hornerStep_xor] at hrest

/-- Evaluation is additive; the shorter polynomial is aligned at the leading term. -/
theorem evalAt_xorFront (z : Byte) {p q : List Byte} {n : Nat} (h : p.length + n = q.length) :
    evalAt (xorFront p q) z = evalAt (p ++ List.replicate n 0) z ^^^ evalAt q z :=
  hornerFrom_xorFront z q p n 0 0 h

theorem evalAt_zero_cons (p : List Byte) (z : Byte) : evalAt (0 :: p) z = evalAt p z := by
  simp only [evalAt_eq_hornerFrom, hornerFrom_cons, fieldProduct_zero_left, byte_xor_zero]

/-- The leading term is a monomial of its own. -/
theorem evalAt_cons (x z : Byte) (p : List Byte) :
    evalAt (x :: p) z = evalAt ([x] ++ List.replicate p.length 0) z ^^^ evalAt p z := by
  rw [← evalAt_zero_cons p, ← evalAt_xorFront z (by simp [Nat.add_comm])]
  simp [xorFront]

/-- Multiplying by a power of x multiplies the value by that power. -/
theorem evalAt_append_zeros (p : List Byte) (z : Byte) (n : Nat) :
    evalAt (p ++ List.replicate n 0) z = fieldProduct (evalAt p z) (evalAt ([1] ++ List.replicate n 0) z) := by
  induction n with
  | zero => rw [List.replicate_zero, List.append_nil, List.append_nil, evalAt_singleton, fieldProduct_one_right]
  | succ n ih =>
    simp only [List.replicate_succ', ← List.append_assoc, evalAt_concat, ih, fieldProduct_assoc, byte_xor_zero]

theorem evalAt_map_gterm (x z : Byte) (b : List Byte) : evalAt (b.map (gterm x)) z = fieldProduct x (evalAt b z) := by
  induction b using List.reverseRecOn with
  | nil => exact (fieldProduct_zero_right x).symm
  | append_singleton b y ih =>
    rw [List.map_append, List.map_singleton, evalAt_concat, evalAt_concat, ih, gterm_eq, fieldProduct_xor_right,
      fieldProduct_assoc]

theorem polyProduct_singleton_left (x : Byte) {b : List Byte} (hb : b ≠ []) : polyProduct [x] b = b.map (gterm x) := by
  obtain ⟨y, b, rfl⟩ := List.exists_cons_of_ne_nil hb
  simp [polyProduct, xorFront]

/-- The value of a product is the product of the values. -/
theorem evalAt_polyProduct (a : List Byte) {b : List Byte} (hb : b ≠ []) (z : Byte) :
    evalAt (polyProduct a b) z = fieldProduct (evalAt a z) (evalAt b z) := by
  induction a with
  | nil => exact (fieldProduct_zero_left _).symm
  | cons x t ih =>
    by_cases ht : t = []
    · rw [ht, polyProduct_singleton_left x hb, evalAt_map_gterm, evalAt_singleton]
    · have hlen : (b.map (gterm x)).length + t.length = (0 :: polyProduct t b).length := by
        have hpos := List.length_pos_iff.2 hb
        rw [List.length_map, List.length_cons, length_polyProduct hb ht]
        omega
      rw [polyProduct, evalAt_xorFront z hlen, evalAt_zero_cons, ih, evalAt_append_zeros, evalAt_map_gterm, evalAt_cons,
        evalAt_append_zeros [x], evalAt_singleton, fieldProduct_xor_left, fieldProduct_assoc, fieldProduct_assoc,
        fieldProduct_comm (evalAt b z)]

/-- genpoly(k) is 0 at gexp(0), …, gexp(k - 1): at each of them one factor is 0 (41_poly.md R170). -/
theorem evalAt_genpoly (k i : Nat) (h : i < k) : evalAt (genpoly k) (gexp i) = 0 := by
  induction k with
  | zero => omega
  | succ k ih =>
    rw [genpoly_succ, evalAt_polyProduct _ (by simp)]
    rcases Nat.lt_succ_iff_lt_or_eq.1 h with hlt | rfl
    · rw [ih hlt, fieldProduct_zero_left]
    · rw [evalAt_linear, BitVec.xor_self]
      exact fieldProduct_zero_right _

end Sys2Proof.Machine
end

section
/-! SUPPORT. The division with a remainder (41_poly.md R165 to R167): what one step subtracts, and the quotient the steps add
up to. -/

namespace Sys2Proof.Machine

/-! ### Sums of lists -/

theorem xorFront_assoc (p : List Byte) : ∀ q r, xorFront (xorFront p q) r = xorFront p (xorFront q r) := by
  induction p with
  | nil => simp
  | cons x p ih =>
    intro q r
    cases q with
    | nil => simp
    | cons y q =>
      cases r with
      | nil => simp
      | cons z r => simp only [xorFront, ih, BitVec.xor_assoc]

/-- Adding a polynomial that is not longer twice gives back the other one. -/
theorem xorFront_cancel (p : List Byte) : ∀ q : List Byte, p.length ≤ q.length → xorFront p (xorFront q p) = q := by
  induction p with
  | nil => simp
  | cons x p ih =>
    intro q h
    cases q with
    | nil => simp at h
    | cons y q =>
      simp only [xorFront, ih q (Nat.le_of_succ_le_succ h), BitVec.xor_comm y, ← BitVec.xor_assoc, BitVec.xor_self]
      exact congrArg (· :: q) (byte_zero_xor y)

theorem xorFront_zeros (n : Nat) : ∀ q : List Byte, n ≤ q.length → xorFront (List.replicate n 0) q = q := by
  induction n with
  | zero => simp
  | succ n ih =>
    intro q h
    cases q with
    | nil => simp at h
    | cons y q => simp only [List.replicate_succ, xorFront, byte_zero_xor, ih q (Nat.le_of_succ_le_succ h)]

theorem map_gterm_zero (b : List Byte) : b.map (gterm 0) = List.replicate b.length 0 :=
  List.map_eq_replicate_iff.2 fun x _ => by rw [gterm_eq, fieldProduct_zero_left]

theorem canon_zeros_append (z : Nat) (p : List Byte) : canon (List.replicate z 0 ++ p) = canon p := by
  induction z with
  | zero => rfl
  | succ z ih => rw [List.replicate_succ, List.cons_append, canon_zero_cons, ih]

theorem leftpad_succ {r : List Byte} {n : Nat} (h : r.length ≤ n) : r.leftpad (n + 1) 0 = 0 :: r.leftpad n 0 := by
  rw [List.leftpad, List.leftpad, Nat.succ_sub h, List.replicate_succ, List.cons_append]

theorem leftpad_of_le {p : List Byte} {n : Nat} (h : n ≤ p.length) : p.leftpad n 0 = p := by
  rw [List.leftpad, Nat.sub_eq_zero_of_le h, List.replicate_zero, List.nil_append]

theorem zipWith_xor_eq_xorFront (p : List Byte) : ∀ q : List Byte, p.length = q.length →
    List.zipWith (· ^^^ ·) p q = xorFront p q := by
  induction p with
  | nil =>
    intro q h
    rw [List.eq_nil_of_length_eq_zero h.symm]
    rfl
  | cons x p ih =>
    intro q h
    cases q with
    | nil => simp at h
    | cons y q => simp only [List.zipWith_cons_cons, xorFront, ih q (Nat.succ.inj h)]

/-- A sum aligned at the constant terms, the right summand not longer, as a sum aligned at the first element. -/
theorem polySum_eq_xorFront {p r : List Byte} (h : r.length ≤ p.length) : polySum p r = xorFront p (r.leftpad p.length 0) := by
  rw [polySum, Nat.max_eq_left h, leftpad_of_le (Nat.le_refl _)]
  exact zipWith_xor_eq_xorFront _ _ (by simp [h])

/-! ### One step -/

theorem gexp_logNonzero {x : Byte} (h : x ≠ 0) : gexp (logNonzero x) = x := by
  obtain ⟨l, -, hl, hx⟩ := glog_spec h
  rw [logNonzero, hl]
  exact hx

/-- Adding to a logarithm multiplies. -/
theorem gexp_logNonzero_add {x : Byte} (h : x ≠ 0) (n : Int) : gexp (logNonzero x + n) = gterm (gexp n) x := by
  rw [← fieldProduct_gexp, gexp_logNonzero h, gterm_eq, fieldProduct_comm]

/-- A step adds a multiple of the divisor at the leading term, which cancels (41_poly.md R165). -/
theorem pmodStep_spec {x y : Byte} {a b : List Byte} (hx : x ≠ 0) (hb : 0 ∉ y :: b) (hl : b.length ≤ a.length) :
    ∃ c t, x :: a = xorFront ((y :: b).map (gterm c)) (0 :: t) ∧ t.length = a.length ∧
      pmodStep (x :: a) (y :: b) = canon t := by
  have hscale : ∀ z ∈ y :: b, gexp (logNonzero z + (logNonzero x - logNonzero y))
      = gterm (gexp (logNonzero x - logNonzero y)) z := fun z hz => gexp_logNonzero_add (fun h => hb (h ▸ hz)) _
  have hlead : gterm (gexp (logNonzero x - logNonzero y)) y = x := by
    rw [← hscale y List.mem_cons_self, add_sub_cancel, gexp_logNonzero hx]
  refine ⟨gexp (logNonzero x - logNonzero y), xorFront a (b.map (gterm (gexp (logNonzero x - logNonzero y)))), ?_, ?_, ?_⟩
  · rw [List.map_cons, hlead, xorFront, byte_xor_zero, xorFront_cancel _ _ (by rw [List.length_map]; exact hl)]
  · rw [length_xorFront, List.length_map, Nat.max_eq_left hl]
  · simp only [pmodStep, List.headD_cons]
    rw [List.map_congr_left hscale, List.map_cons, hlead, xorFront, BitVec.xor_self]
    exact canon_zero_cons _

/-! ### The quotient -/

/-- `a` is `r` plus a multiple of `b`, with a quotient of the length a division of `a` by `b` has (41_poly.md R167); aligned at
the first element, where every step of R165 subtracts. -/
def divisionHolds (a b r : List Byte) : Prop :=
  ∃ q, q.length = a.length + 1 - b.length ∧ a = xorFront (polyProduct q b) (r.leftpad a.length 0)

theorem divisionHolds_length {a b r : List Byte} (h : divisionHolds a b r) : r.length ≤ a.length := by
  obtain ⟨q, -, ha⟩ := h
  have hlen := congrArg List.length ha
  rw [length_xorFront, List.length_leftpad] at hlen
  omega

/-- Where the divisor is longer, the remainder is the dividend, up to leading zeros. -/
theorem divisionHolds_iff_of_short {a b : List Byte} (h : a.length < b.length) (r : List Byte) :
    divisionHolds a b r ↔ a = r.leftpad a.length 0 := by
  constructor
  · rintro ⟨q, hq, ha⟩
    rw [List.eq_nil_of_length_eq_zero (l := q) (by omega), polyProduct, xorFront_nil_left] at ha
    exact ha
  · exact fun ha => ⟨[], by rw [List.length_nil]; omega, by rw [polyProduct, xorFront_nil_left]; exact ha⟩

/-- A multiple of the divisor added at the leading term adds one coefficient to the quotient. -/
theorem divisionHolds_add {t b r : List Byte} (h : divisionHolds t b r) (hb : b.length ≤ t.length + 1) (c : Byte) :
    divisionHolds (xorFront (b.map (gterm c)) (0 :: t)) b r := by
  have hr := divisionHolds_length h
  obtain ⟨q, hq, ht⟩ := h
  have hlen : (xorFront (b.map (gterm c)) (0 :: t)).length = t.length + 1 := by
    rw [length_xorFront, List.length_map, List.length_cons, Nat.max_eq_right hb]
  refine ⟨c :: q, by rw [hlen, List.length_cons]; omega, ?_⟩
  rw [hlen, leftpad_succ hr, polyProduct, xorFront_assoc, xorFront, ← ht, byte_xor_zero]

theorem divisionHolds_zero_cons {t b r : List Byte} (h : divisionHolds t b r) : divisionHolds (0 :: t) b r := by
  rcases Nat.lt_or_ge (t.length + 1) b.length with hshort | hb
  · rw [divisionHolds_iff_of_short (by simpa using hshort), List.length_cons, leftpad_succ (divisionHolds_length h)]
    exact congrArg (0 :: ·) ((divisionHolds_iff_of_short (by omega) r).1 h)
  · have hzero := divisionHolds_add h hb 0
    rwa [map_gterm_zero, xorFront_zeros _ _ hb] at hzero

/-- Leading zeros of the dividend do not matter. -/
theorem divisionHolds_of_canon {a b r : List Byte} (h : divisionHolds (canon a) b r) : divisionHolds a b r := by
  obtain ⟨z, hz⟩ := canon_split a
  rw [hz]
  clear hz
  induction z with
  | zero => exact h
  | succ z ih => exact divisionHolds_zero_cons ih

/-- Every run of the loop that may take as many steps as `a` is long divides `a` (41_poly.md R165). -/
theorem pmodLoop_divisionHolds {b : List Byte} (hb : b ≠ []) (hb0 : 0 ∉ b) : ∀ (fuel : Nat) (a : List Byte),
    a.head? ≠ some 0 → a.length ≤ fuel → divisionHolds a b (pmodLoop fuel a b) := by
  have hpos := List.length_pos_iff.2 hb
  have hshort : ∀ a : List Byte, a.length < b.length → divisionHolds a b a := fun a h =>
    (divisionHolds_iff_of_short h a).2 (leftpad_of_le (Nat.le_refl _)).symm
  intro fuel
  induction fuel with
  | zero => exact fun a _ hl => hshort a (by omega)
  | succ n ih =>
    intro a ha hl
    rw [pmodLoop]
    split
    · exact hshort a ‹_›
    · rename_i hlong
      obtain ⟨y, b, rfl⟩ := List.exists_cons_of_ne_nil hb
      obtain ⟨x, a, rfl⟩ := List.exists_cons_of_ne_nil (l := a) (by rintro rfl; exact hlong hpos)
      simp only [List.length_cons] at hlong hl
      obtain ⟨c, t, hsum, htlen, hstep⟩ := pmodStep_spec (a := a) (by simpa using ha) hb0 (by omega)
      have hrest := ih (canon t) (head_canon t) ((length_canon_le t).trans (by omega))
      rw [hstep, hsum]
      exact divisionHolds_add (divisionHolds_of_canon hrest) (by rw [List.length_cons]; omega) c

/-! ### The division -/

theorem polyTimes_nil_left (b : List Byte) : polyTimes [] b = List.replicate (b.length - 1) 0 := by
  refine List.eq_replicate_iff.2 ⟨by simp [polyTimes], fun x hx => ?_⟩
  obtain ⟨k, -, rfl⟩ := List.mem_map.1 hx
  exact convolution_nil_left b k

/-- A dividend without leading zeros is the quotient times the divisor plus the remainder (41_poly.md R167). -/
theorem exists_quotient {a b : List Byte} (ha : a.head? ≠ some 0) (hb : b ≠ []) (h : a.length < b.length ∨ 0 ∉ b) :
    ∃ q, a = canon (polySum (polyTimes q b) (pmod a b)) := by
  rcases Nat.lt_or_ge a.length b.length with hshort | hlong
  · refine ⟨[], ?_⟩
    have hle : a.length ≤ b.length - 1 := by omega
    have hpad : b.length - 1 ≤ (a.leftpad (b.length - 1) 0).length := by
      rw [List.length_leftpad]
      exact Nat.le_max_left _ _
    rw [pmod_of_short hshort, polyTimes_nil_left, polySum_eq_xorFront (by simpa using hle), List.length_replicate,
      xorFront_zeros _ _ hpad, List.leftpad, canon_zeros_append, canon_of_head? ha]
  · have hdiv : divisionHolds a b (pmod a b) := pmodLoop_divisionHolds hb (h.resolve_left (by omega)) a.length a ha (Nat.le_refl _)
    have hr := divisionHolds_length hdiv
    obtain ⟨q, hq, heq⟩ := hdiv
    have hne : q ≠ [] := List.ne_nil_of_length_pos (by omega)
    have hlen : (polyProduct q b).length = a.length := by
      rw [length_polyProduct hb hne]
      omega
    refine ⟨q, ?_⟩
    rw [polyTimes_eq_polyProduct hne hb, polySum_eq_xorFront (hr.trans hlen.ge), hlen, ← heq, canon_of_head? ha]

end Sys2Proof.Machine
end

section
/-! SUPPORT. The commands of the polynomial engine (41_poly.md R160 to R174), each by its outcomes, and the statements about
them. -/

namespace Sys2Proof.Machine

/-! ### Checks -/

/-- The least index of a zero coefficient, as the statements say it (41_poly.md R163, R166). -/
theorem firstZero_eq_some {p : List Byte} {i : Nat} (h : p[i]? = some 0) (hleast : 0 ∉ p.take i) : firstZero p = some i := by
  obtain ⟨hi, hz⟩ := List.getElem?_eq_some_iff.1 h
  refine List.findIdx?_eq_some_iff_getElem.2 ⟨hi, by simpa using hz, fun j hj => ?_⟩
  have hne : p[j] ≠ 0 := fun e => hleast (List.mem_take_iff_getElem.2 ⟨j, by omega, e⟩)
  simpa using hne

theorem firstZero_eq_none {p : List Byte} (h : 0 ∉ p) : firstZero p = none :=
  List.findIdx?_eq_none_iff.2 fun x hx => by simpa using fun e : x = 0 => h (e ▸ hx)

theorem lengthCheck_longA {s : State} (h : 256 < s.aLen.toNat) : s.lengthCheck = .error (.rangeLength 0 s.aLen.toNat) :=
  if_pos h

theorem lengthCheck_longB {s : State} (hA : s.aLen.toNat ≤ 256) (h : 256 < s.bLen.toNat) :
    s.lengthCheck = .error (.rangeLength 1 s.bLen.toNat) :=
  (if_neg (Nat.not_lt.2 hA)).trans (if_pos h)

theorem lengthCheck_fits {s : State} (hA : s.aLen.toNat ≤ 256) (hB : s.bLen.toNat ≤ 256) : s.lengthCheck = .ok () :=
  (if_neg (Nat.not_lt.2 hA)).trans (if_neg (Nat.not_lt.2 hB))

/-! ### The outcomes of the commands -/

/-- Every command, from every state, ends in a next state (60_exceptions.md R308). -/
theorem exec_next (i : Instr) (s : State) : ∃ t, exec i s = .next t := by
  rcases exec_ends i s with ⟨u, hu, -⟩ | ⟨e, hfail⟩
  · exact ⟨_, hu⟩
  · exact ⟨_, hfail⟩

theorem polyMul_fails {s : State} {e : CmdError} (h : polyMulResult s = .error e) :
    failsWith .polyMul s e.code e.info [.regR] :=
  failsWith_of_failUnspecified (by simp only [exec, execPolyMul, h])

theorem polyMod_fails {s : State} {e : CmdError} (h : polyModResult s = .error e) :
    failsWith .polyMod s e.code e.info [.regR] :=
  failsWith_of_failUnspecified (by simp only [exec, execPolyMod, h])

theorem exec_polyMul_of_ok {s : State} {p : List Byte} (h : polyMulResult s = .ok p) :
    exec .polyMul s = (s.setR p).complete := by
  simp only [exec, execPolyMul, h]

theorem exec_polyMod_of_ok {s : State} {p : List Byte} (h : polyModResult s = .ok p) :
    exec .polyMod s = (s.setR p).complete := by
  simp only [exec, execPolyMod, h]

theorem polyMulResult_of_lengthCheck {s : State} {e : CmdError} (h : s.lengthCheck = .error e) : polyMulResult s = .error e := by
  simp only [polyMulResult, h]

theorem polyModResult_of_lengthCheck {s : State} {e : CmdError} (h : s.lengthCheck = .error e) : polyModResult s = .error e := by
  simp only [polyModResult, h]

section
variable {s : State} (hA : s.aLen.toNat ≤ 256) (hB : s.bLen.toNat ≤ 256)
include hA hB

theorem polyMulResult_emptyA (ha : s.operandA = []) : polyMulResult s = .error (.domain 0 0xFFFF) := by
  simp [polyMulResult, lengthCheck_fits hA hB, ha]

theorem polyMulResult_emptyB (ha : s.operandA ≠ []) (hb : s.operandB = []) : polyMulResult s = .error (.domain 1 0xFFFF) := by
  simp [polyMulResult, lengthCheck_fits hA hB, ha, hb]

theorem polyMulResult_overflow (ha : s.operandA ≠ []) (hb : s.operandB ≠ [])
    (hn : 256 < s.operandA.length + s.operandB.length - 1) :
    polyMulResult s = .error (.polyOverflow (s.operandA.length + s.operandB.length - 1)) := by
  simp [polyMulResult, lengthCheck_fits hA hB, ha, hb, Config.pMax, hn]

theorem polyMulResult_zeroA (ha : s.operandA ≠ []) (hb : s.operandB ≠ [])
    (hn : s.operandA.length + s.operandB.length - 1 ≤ 256) {i : Nat} (hi : firstZero s.operandA = some i) :
    polyMulResult s = .error (.domain 0 i) := by
  simp [polyMulResult, lengthCheck_fits hA hB, ha, hb, Config.pMax, Nat.not_lt.2 hn, hi]

theorem polyMulResult_zeroB (ha : s.operandA ≠ []) (hb : s.operandB ≠ [])
    (hn : s.operandA.length + s.operandB.length - 1 ≤ 256) (ha0 : 0 ∉ s.operandA) {j : Nat}
    (hj : firstZero s.operandB = some j) : polyMulResult s = .error (.domain 1 j) := by
  simp [polyMulResult, lengthCheck_fits hA hB, ha, hb, Config.pMax, Nat.not_lt.2 hn, firstZero_eq_none ha0, hj]

/-- Every check passes, and the product has no leading zero to remove (41_poly.md R163). -/
theorem polyMulResult_product (ha : s.operandA ≠ []) (hb : s.operandB ≠ [])
    (hn : s.operandA.length + s.operandB.length - 1 ≤ 256) (ha0 : 0 ∉ s.operandA) (hb0 : 0 ∉ s.operandB) :
    polyMulResult s = .ok (polyProduct s.operandA s.operandB) := by
  simp [polyMulResult, lengthCheck_fits hA hB, ha, hb, Config.pMax, Nat.not_lt.2 hn, firstZero_eq_none ha0,
    firstZero_eq_none hb0, canon_polyProduct ha hb ha0 hb0]

theorem polyModResult_empty (hb : s.operandB = []) : polyModResult s = .error (.domain 1 0xFFFF) := by
  simp [polyModResult, lengthCheck_fits hA hB, hb]

theorem polyModResult_zero (hb : s.operandB ≠ []) (hlong : s.operandB.length ≤ s.operandA.length) {j : Nat}
    (hj : firstZero s.operandB = some j) : polyModResult s = .error (.domain 1 j) := by
  simp [polyModResult, lengthCheck_fits hA hB, hb, Nat.not_lt.2 hlong, hj]

theorem polyModResult_remainder (hb : s.operandB ≠ []) (h : s.operandA.length < s.operandB.length ∨ 0 ∉ s.operandB) :
    polyModResult s = .ok (pmod s.operandA s.operandB) := by
  rcases Nat.lt_or_ge s.operandA.length s.operandB.length with hshort | hlong
  · simp [polyModResult, lengthCheck_fits hA hB, hb, hshort]
  · simp [polyModResult, lengthCheck_fits hA hB, hb, Nat.not_lt.2 hlong,
      firstZero_eq_none (h.resolve_left (Nat.not_lt.2 hlong))]

/-- POLY_MOD completes with the remainder, shorter than B, in R (41_poly.md R166). -/
theorem exec_polyMod_remainder (hb : s.operandB ≠ []) (h : s.operandA.length < s.operandB.length ∨ 0 ∉ s.operandB) :
    ∃ t, exec .polyMod s = .next t ∧ succeeded s t ∧ onlyWrites [.regR] s t ∧
      t.coeffsR = pmod s.operandA s.operandB ∧ t.coeffsR.length < s.operandB.length := by
  have hok := polyModResult_remainder hA hB hb h
  obtain ⟨-, hlen⟩ := polyModResult_ok hok
  obtain ⟨t, ht, hsucc, hframe, -, hR⟩ := s.setR_complete hlen
  exact ⟨t, (exec_polyMod_of_ok hok).trans ht, hsucc, hframe, hR, hR ▸ length_pmod (head_canon _) (head_canon _) hb⟩

end

/-- POLY_GEN completes from every state with the generator in R (41_poly.md R170). -/
theorem exec_polyGen_generator (k : Byte) (s : State) :
    ∃ t, exec (.polyGen k) s = .next t ∧ succeeded s t ∧ onlyWrites [.regR] s t ∧ t.coeffsR = genpoly k.toNat := by
  have hlen : (genpoly k.toNat).length ≤ 256 := by
    rw [(genpoly_spec k.toNat).1]
    exact k.isLt
  obtain ⟨t, ht, hsucc, hframe, -, hR⟩ := s.setR_complete hlen
  exact ⟨t, ht, hsucc, hframe, hR⟩

/-! ### The coefficients of R -/

theorem State.length_coeffsR (s : State) : s.coeffsR.length = s.rLen.val := s.length_elems .polyR _

theorem State.getD_coeffsR (s : State) {k : Nat} (h : k < s.rLen.val) (d : Byte) : s.coeffsR.getD k d = s.elem .polyR k :=
  s.getD_elems .polyR _ k d h

theorem State.head?_coeffsR (s : State) (h : 0 < s.rLen.val) : s.coeffsR.head? = some (s.elem .polyR 0) := by
  simp [State.coeffsR, State.elems, List.head?_range, Nat.ne_of_gt h]

/-- The moves: the coefficients of R below R_LEN, the elements the memory held above (41_poly.md R173). -/
theorem read_writeFrom_coeffsR (free : Nat → Nat → Byte) (m : Memory Byte) (s : State) (k : Nat) :
    (m.writeFrom 0 s.coeffsR).read free k = if k < s.rLen.val then s.elem .polyR k else m.read free k := by
  rw [Memory.read_writeFrom, if_pos (Nat.zero_le k), Nat.sub_zero]
  split
  · exact s.getD_coeffsR ‹_› _
  · exact List.getD_eq_default _ _ (by rw [s.length_coeffsR]; omega)

/-! ### The statements -/

/-- Settles O15: a list is its leading zeros and its canonical form, and the commands write R alone. -/
theorem operandsAreReadCanonical : Obligations.OperandsAreReadCanonical := by
  unfold Obligations.OperandsAreReadCanonical
  intro s
  have hread : ∀ p : List Byte, ∃ z, p = List.replicate z 0 ++ canon p ∧ (canon p).head? ≠ some 0 := fun p =>
    (canon_split p).imp fun _ hz => ⟨hz, head_canon p⟩
  refine ⟨hread _, hread _, fun i hi => ?_⟩
  have hdests : destsOf i = [.regR] := by
    rcases List.mem_pair.1 hi with rfl | rfl <;> rfl
  obtain ⟨t, ht⟩ := exec_next i s
  obtain ⟨hframe, -⟩ := exec_writesRow i s t ht
  exact ⟨t, ht, hframe .regA (by simp [hdests]), hframe .regB (by simp [hdests])⟩

/-- Settles O16: the product accumulated row by row has the convolution's coefficients, and its leading term is not 0. -/
theorem polyMulWritesTheProduct : Obligations.PolyMulWritesTheProduct := by
  unfold Obligations.PolyMulWritesTheProduct
  intro s hA hB ha hb ha0 hb0 hfit
  have hlen := length_polyProduct hb ha
  have hok := polyMulResult_product hA hB ha hb (by omega) ha0 hb0
  obtain ⟨t, ht, hsucc, hframe, hrLen, hR⟩ := s.setR_complete (p := polyProduct s.operandA s.operandB) (by omega)
  refine ⟨t, (exec_polyMul_of_ok hok).trans ht, hsucc, hframe, hrLen.trans hlen, fun k hk => ?_⟩
  rw [← t.getD_coeffsR hk 0, hR, getD_polyProduct]

/-- Settles O17: each clause is one outcome of the checks, which R163 orders. -/
theorem polyMulReportsTheFirstError : Obligations.PolyMulReportsTheFirstError := by
  unfold Obligations.PolyMulReportsTheFirstError
  intro s
  refine ⟨fun h => ?_, fun hA h => ?_, fun hA hB => ⟨fun ha => ?_, fun ha hb => ?_, fun ha hb =>
    ⟨fun hn => ?_, fun hn => ⟨fun i hi hleast => ?_, fun ha0 j hj hleast => ?_⟩⟩⟩⟩
  · simpa [CmdError.code, CmdError.info] using polyMul_fails (polyMulResult_of_lengthCheck (lengthCheck_longA h))
  · exact polyMul_fails (polyMulResult_of_lengthCheck (lengthCheck_longB hA h))
  · exact polyMul_fails (polyMulResult_emptyA hA hB ha)
  · exact polyMul_fails (polyMulResult_emptyB hA hB ha hb)
  · exact polyMul_fails (polyMulResult_overflow hA hB ha hb hn)
  · simpa [CmdError.code, CmdError.info] using polyMul_fails (polyMulResult_zeroA hA hB ha hb hn (firstZero_eq_some hi hleast))
  · exact polyMul_fails (polyMulResult_zeroB hA hB ha hb hn ha0 (firstZero_eq_some hj hleast))

/-- Settles O18: the division ends with a canonical remainder shorter than B. -/
theorem polyModWritesTheRemainder : Obligations.PolyModWritesTheRemainder := by
  unfold Obligations.PolyModWritesTheRemainder
  intro s hA hB hb h
  obtain ⟨t, ht, hsucc, hframe, hR, hlt⟩ := exec_polyMod_remainder hA hB hb h
  refine ⟨t, ht, hsucc, hframe, t.length_coeffsR ▸ hlt, fun h0 e => ?_, fun hshort => hR.trans (pmod_of_short hshort)⟩
  have hhead : t.coeffsR.head? ≠ some 0 := hR ▸ head_pmodLoop _ _ _ (head_canon _)
  exact hhead ((t.head?_coeffsR (Nat.pos_of_ne_zero fun h => h0 (Fin.ext h))).trans (congrArg some e))

/-- Settles O19, by the division's invariant: each step adds one term to the quotient. -/
theorem polyModDivides : Obligations.PolyModDivides := by
  unfold Obligations.PolyModDivides
  intro s hA hB hb h
  obtain ⟨t, ht, -, -, hR, hlt⟩ := exec_polyMod_remainder hA hB hb h
  obtain ⟨q, hq⟩ := exists_quotient (head_canon _ : s.operandA.head? ≠ some 0) hb h
  exact ⟨t, q, ht, hlt, hR ▸ hq⟩

/-- Settles O20: each clause is one outcome of the checks, which R166 orders. -/
theorem polyModReportsTheFirstError : Obligations.PolyModReportsTheFirstError := by
  unfold Obligations.PolyModReportsTheFirstError
  intro s
  refine ⟨fun h => ?_, fun hA h => ?_, fun hA hB => ⟨fun hb => ?_, fun hb hlong j hj hleast => ?_⟩⟩
  · simpa [CmdError.code, CmdError.info] using polyMod_fails (polyModResult_of_lengthCheck (lengthCheck_longA h))
  · exact polyMod_fails (polyModResult_of_lengthCheck (lengthCheck_longB hA h))
  · exact polyMod_fails (polyModResult_empty hA hB hb)
  · exact polyMod_fails (polyModResult_zero hA hB hb hlong (firstZero_eq_some hj hleast))

/-- Settles O21: the generator has k + 1 coefficients, the first of them 1. -/
theorem polyGenWritesTheGenerator : Obligations.PolyGenWritesTheGenerator := by
  unfold Obligations.PolyGenWritesTheGenerator
  intro k s
  obtain ⟨t, ht, hsucc, hframe, hR⟩ := exec_polyGen_generator k s
  obtain ⟨hlen, hlead⟩ := genpoly_spec k.toNat
  have hrLen : t.rLen.val = k.toNat + 1 := by rw [← t.length_coeffsR, hR, hlen]
  refine ⟨t, ht, hsucc, hframe, hrLen, ?_, hR⟩
  rw [← t.getD_coeffsR (by omega) 0, hR, hlead]

/-- Settles O22: the value of a product is the product of the values, and one factor is 0 at each root. -/
theorem polyGenHasItsRoots : Obligations.PolyGenHasItsRoots := by
  unfold Obligations.PolyGenHasItsRoots
  intro k s t ht i hi
  obtain ⟨t', ht', -, -, hR⟩ := exec_polyGen_generator k s
  cases ht'.symm.trans ht
  rw [hR]
  exact evalAt_genpoly _ i hi

/-- Settles O23: each move writes the coefficients of R from element 0 on. -/
theorem polyMovesCopyR : Obligations.PolyMovesCopyR := by
  unfold Obligations.PolyMovesCopyR
  intro s
  have hlen : (BitVec.ofNat 9 s.rLen.val).toNat = s.rLen.val := by
    rw [BitVec.toNat_ofNat]
    exact Nat.mod_eq_of_lt (by omega)
  refine ⟨⟨_, rfl, ⟨rfl, rfl, rfl, rfl, rfl⟩, exec_writesRow .polyMoveRA s _ rfl, hlen, fun k hk => ?_, fun k hk => ?_⟩,
    ⟨_, rfl, ⟨rfl, rfl, rfl, rfl, rfl⟩, exec_writesRow .polyMoveRB s _ rfl, hlen, fun k hk => ?_, fun k hk => ?_⟩⟩
  · exact (read_writeFrom_coeffsR _ s.polyA s k).trans (if_pos hk)
  · exact (read_writeFrom_coeffsR _ s.polyA s k).trans (if_neg (Nat.not_lt.2 hk))
  · exact (read_writeFrom_coeffsR _ s.polyB s k).trans (if_pos hk)
  · exact (read_writeFrom_coeffsR _ s.polyB s k).trans (if_neg (Nat.not_lt.2 hk))

end Sys2Proof.Machine
end

section
/-! SUPPORT. The parity of a block (42_rs.md R201 to R204): where the remainder stands in it, and that the remainder's value
cancels the data's at every root of the generator. -/

namespace Sys2Proof.Machine

/-! ### Right alignment -/

/-- Padding on the left to `n` elements puts `p` at the right end. -/
theorem getElem?_leftpad {p : List Byte} {n i : Nat} (hp : p.length ≤ n) (hi : i < n) :
    (p.leftpad n 0)[i]? = some (if n ≤ i + p.length then p.getD (i + p.length - n) 0 else 0) := by
  have hzeros : (List.replicate (n - p.length) (0 : Byte)).length = n - p.length := List.length_replicate
  rw [List.leftpad]
  split
  · have hk : i + p.length - n < p.length := by omega
    rw [List.getElem?_append_right (by omega), hzeros, show i - (n - p.length) = i + p.length - n by omega,
      List.getElem?_eq_getElem hk, List.getD_eq_getElem _ _ hk]
  · rw [List.getElem?_append_left (by omega), List.getElem?_replicate, if_pos (by omega)]

/-- The remainder fits the parity codewords (42_rs.md R202). -/
theorem length_rsRemainder_le (d : List Byte) (ec : Nat) : (pmod (rsDividend d ec) (genpoly ec)).length ≤ ec := by
  obtain ⟨hlen, -⟩ := genpoly_spec ec
  have hne : genpoly ec ≠ [] := List.ne_nil_of_length_pos (by omega)
  have hlt : (pmod (rsDividend d ec) (genpoly ec)).length < (genpoly ec).length :=
    length_pmod (head_canon _) (head_genpoly ec) hne
  omega

/-! ### Syndromes -/

theorem evalAt_leftpad (p : List Byte) (n : Nat) (z : Byte) : evalAt (p.leftpad n 0) z = evalAt p z := by
  rw [List.leftpad]
  induction n - p.length with
  | zero => rfl
  | succ m ih => rw [List.replicate_succ, List.cons_append, evalAt_zero_cons, ih]

/-- Horner's rule over two pieces: the left one stands `p.length` powers of x higher. -/
theorem evalAt_append (d p : List Byte) (z : Byte) :
    evalAt (d ++ p) z = evalAt (d ++ List.replicate p.length 0) z ^^^ evalAt p z := by
  induction p using List.reverseRecOn with
  | nil => exact (byte_xor_zero _).symm
  | append_singleton p c ih =>
    rw [List.length_append, List.length_singleton, List.replicate_succ', ← List.append_assoc, ← List.append_assoc,
      evalAt_concat, evalAt_concat, evalAt_concat, ih, ← hornerStep_xor, byte_zero_xor]

/-- At a root of the divisor the dividend has the remainder's value. -/
theorem evalAt_of_divisionHolds {a b r : List Byte} (h : divisionHolds a b r) (hb : b ≠ []) {z : Byte}
    (hz : evalAt b z = 0) : evalAt a z = evalAt r z := by
  have hr := divisionHolds_length h
  obtain ⟨q, -, ha⟩ := h
  have hlen := congrArg List.length ha
  rw [length_xorFront, List.length_leftpad] at hlen
  have halign : (polyProduct q b).length + (a.length - (polyProduct q b).length) = (r.leftpad a.length 0).length := by
    rw [List.length_leftpad]
    omega
  rw [ha, evalAt_xorFront z halign, evalAt_append_zeros, evalAt_polyProduct q hb, hz, fieldProduct_zero_right,
    fieldProduct_zero_left, byte_zero_xor, evalAt_leftpad]

/-- Every syndrome of a block is 0 (42_rs.md R204). -/
theorem evalAt_rsParity (d : List Byte) {ec i : Nat} (hec : ec ≤ 30) (hi : i < ec) :
    evalAt (d ++ rsParity d ec) (gexp i) = 0 := by
  have hne : genpoly ec ≠ [] := List.ne_nil_of_length_pos (by rw [(genpoly_spec ec).1]; omega)
  have hdiv : divisionHolds (d ++ List.replicate ec 0) (genpoly ec) (pmod (rsDividend d ec) (genpoly ec)) :=
    divisionHolds_of_canon (pmodLoop_divisionHolds hne (genpoly_no_zero ec hec) _ _ (head_canon _) (Nat.le_refl _))
  rw [evalAt_append, length_rsParity, evalAt_of_divisionHolds hdiv hne (evalAt_genpoly ec i hi), rsParity, evalAt_leftpad]
  exact BitVec.xor_self

/-- Settles O25: the remainder is right-aligned, and adding it to the data times x^ec leaves a multiple of the generator. -/
theorem rsParityHasZeroSyndromes : Obligations.RsParityHasZeroSyndromes := by
  unfold Obligations.RsParityHasZeroSyndromes
  exact fun d ec => ⟨length_rsRemainder_le d ec, length_rsParity d ec,
    fun _ hi => getElem?_leftpad (length_rsRemainder_le d ec) hi, fun hec _ hi => evalAt_rsParity d hec hi⟩

end Sys2Proof.Machine
end

section
/-! SUPPORT. The interleaving (42_rs.md R200, R205): the pieces of data the blocks take, and at which index column-major order
puts an element of a block. -/

namespace Sys2Proof.Machine

/-! ### Columns -/

theorem length_columnOf (blocks : List (List Byte)) (i : Nat) :
    (columnOf blocks i).length = blocks.countP (fun x => decide (i < x.length)) := by
  rw [columnOf, List.length_filterMap_eq_countP]
  exact List.countP_congr fun x _ => by simp

/-- In column `i` an element comes after those of the blocks before it that have one. -/
theorem getElem?_columnOf {blocks : List (List Byte)} {j i : Nat} {b : List Byte} (h : blocks[j]? = some b)
    (hi : i < b.length) :
    (columnOf blocks i)[(blocks.take j).countP (fun x => decide (i < x.length))]? = some b[i] := by
  obtain ⟨hj, rfl⟩ := List.getElem?_eq_some_iff.1 h
  have hsplit : columnOf blocks i = columnOf (blocks.take j) i ++ blocks[j][i] :: columnOf (blocks.drop (j + 1)) i :=
    calc
      columnOf blocks i = columnOf (blocks.take j ++ blocks[j] :: blocks.drop (j + 1)) i := by
        rw [← List.drop_eq_getElem_cons hj, List.take_append_drop]
      _ = _ := by
        simp only [columnOf, List.filterMap_append, List.filterMap_cons, List.getElem?_eq_getElem hi]
  rw [hsplit, ← length_columnOf, List.getElem?_append_right (Nat.le_refl _), Nat.sub_self, List.getElem?_cons_zero]

/-- The first `n` columns hold the first `n` elements of every block. -/
theorem length_flatMap_columnOf (n : Nat) (blocks : List (List Byte)) :
    ((List.range n).flatMap (columnOf blocks)).length = (blocks.map (fun x => min n x.length)).sum := by
  rw [List.length_flatMap]
  induction blocks with
  | nil => simp [columnOf]
  | cons b t ih => simp only [length_columnOf_cons, List.sum_map_add, sum_range_lt, ih, List.map_cons, List.sum_cons]

/-- Column-major order reaches every column that some block has an element of. -/
theorem columnMajor_split {blocks : List (List Byte)} {b : List Byte} (hb : b ∈ blocks) {i : Nat} (hi : i < b.length) :
    ∃ rest, columnMajor blocks = (List.range i).flatMap (columnOf blocks) ++ (columnOf blocks i ++ rest) := by
  have hmax : b.length ≤ (blocks.map List.length).foldl max 0 := le_foldl_max (List.mem_map_of_mem hb)
  obtain ⟨m, hm⟩ : ∃ m, (blocks.map List.length).foldl max 0 = i + (m + 1) :=
    ⟨(blocks.map List.length).foldl max 0 - (i + 1), by omega⟩
  rw [columnMajor, hm, List.range_add, List.flatMap_append, List.range_succ_eq_map, List.map_cons, List.flatMap_cons]
  exact ⟨_, rfl⟩

/-- Where element `i` of block `j` stands in column-major order; `size` gives the blocks' lengths (42_rs.md R205). -/
theorem getElem?_columnMajor {β : Type} {blocks : List (List Byte)} {descs : List β} {size : β → Nat}
    (hsize : blocks.map List.length = descs.map size) {j i : Nat} {b : List Byte} (h : blocks[j]? = some b)
    (hi : i < b.length) :
    (columnMajor blocks)[(descs.map (fun x => min i (size x))).sum
      + (descs.take j).countP (fun x => decide (i < size x))]? = some b[i] := by
  have hbefore : (descs.map (fun x => min i (size x))).sum = ((List.range i).flatMap (columnOf blocks)).length := by
    have hmin := congrArg (List.map (min i)) hsize
    rw [List.map_map, List.map_map] at hmin
    rw [length_flatMap_columnOf]
    exact congrArg List.sum hmin.symm
  have hcount : (descs.take j).countP (fun x => decide (i < size x))
      = (blocks.take j).countP (fun x => decide (i < x.length)) := by
    have htake := congrArg (fun l => (l.take j).countP (fun n => decide (i < n))) hsize
    simp only [← List.map_take, List.countP_map] at htake
    exact htake.symm
  have hcol := getElem?_columnOf h hi
  obtain ⟨rest, hrest⟩ := columnMajor_split (List.mem_of_getElem? h) hi
  rw [hrest, hbefore, hcount, List.getElem?_append_right (Nat.le_add_right _ _), Nat.add_sub_cancel_left,
    List.getElem?_append_left (List.getElem?_eq_some_iff.1 hcol).1, hcol]

/-- One block alone is read in its own order. -/
theorem columnMajor_singleton (x : List Byte) : columnMajor [x] = x := by
  have hlen : (columnMajor [x]).length = x.length := by simp [length_columnMajor]
  refine List.ext_getElem? fun i => ?_
  rcases Nat.lt_or_ge i x.length with hi | hi
  · have hpos := getElem?_columnMajor (descs := [x]) (size := List.length) rfl (j := 0) rfl hi
    simpa [Nat.min_eq_left (Nat.le_of_lt hi), hi] using hpos
  · rw [List.getElem?_eq_none (hlen ▸ hi), List.getElem?_eq_none hi]

/-! ### The blocks -/

theorem capacityOf_cons (b : RsBlock) (bs : List RsBlock) : capacityOf (b :: bs) = b.data + capacityOf bs := rfl

/-- Every block takes its whole data where the input is the capacity (42_rs.md R200). -/
theorem map_length_splitBlocks {bs : List RsBlock} : ∀ {d : List Byte}, d.length = capacityOf bs →
    (splitBlocks bs d).map List.length = bs.map RsBlock.data := by
  induction bs with
  | nil => exact fun _ => rfl
  | cons b t ih =>
    intro d h
    rw [capacityOf_cons] at h
    have hrest : (d.drop b.data).length = capacityOf t := by rw [List.length_drop]; omega
    rw [splitBlocks, List.map_cons, List.map_cons, ih hrest, List.length_take, Nat.min_eq_left (by omega)]

/-- A block's data begins after the data of the blocks before it (42_rs.md R200). -/
theorem getElem?_splitBlocks {bs : List RsBlock} : ∀ {j : Nat} {b : RsBlock} {d : List Byte}, bs[j]? = some b →
    (splitBlocks bs d)[j]? = some ((d.drop (capacityOf (bs.take j))).take b.data) := by
  induction bs with
  | nil => intro j b d h; simp at h
  | cons c t ih =>
    intro j b d h
    cases j with
    | zero =>
      cases h
      rfl
    | succ j =>
      rw [List.getElem?_cons_succ] at h
      rw [splitBlocks, List.getElem?_cons_succ, ih h, List.take_succ_cons, capacityOf_cons, List.drop_drop]

/-- The parity of each block, blocks in order (42_rs.md R202, R203). -/
def parityBlocks (bs : List RsBlock) (d : List Byte) : List (List Byte) :=
  List.zipWith (fun b x => rsParity x b.ec) bs (splitBlocks bs d)

theorem rsCodewords_eq (bs : List RsBlock) (d : List Byte) :
    rsCodewords bs d = columnMajor (splitBlocks bs d) ++ columnMajor (parityBlocks bs d) := rfl

theorem map_length_parityBlocks (bs : List RsBlock) : ∀ d : List Byte,
    (parityBlocks bs d).map List.length = bs.map RsBlock.ec := by
  induction bs with
  | nil => exact fun _ => rfl
  | cons b t ih =>
    intro d
    have hrest := ih (d.drop b.data)
    rw [parityBlocks] at hrest ⊢
    rw [splitBlocks, List.zipWith_cons_cons, List.map_cons, List.map_cons, length_rsParity, hrest]

theorem getElem?_parityBlocks {bs : List RsBlock} {j : Nat} {b : RsBlock} {d : List Byte} (h : bs[j]? = some b) :
    (parityBlocks bs d)[j]? = some (rsParity ((d.drop (capacityOf (bs.take j))).take b.data) b.ec) :=
  List.getElem?_zipWith_eq_some.2 ⟨_, _, h, getElem?_splitBlocks h, rfl⟩

/-! ### The codeword sequence -/

section
variable {bs : List RsBlock} {d : List Byte} (hd : d.length = capacityOf bs)
include hd

theorem length_dataColumns : (columnMajor (splitBlocks bs d)).length = capacityOf bs := by
  rw [length_columnMajor, map_length_splitBlocks hd, capacityOf]

theorem length_rsCodewords : (rsCodewords bs d).length = (bs.map (fun x => x.data + x.ec)).sum := by
  rw [rsCodewords_eq, List.length_append, length_dataColumns hd, length_columnMajor, map_length_parityBlocks,
    List.sum_map_add, capacityOf]

/-- Data comes first, column-major (42_rs.md R205). -/
theorem getElem?_rsCodewords_data {j : Nat} {b : RsBlock} (h : bs[j]? = some b) {i : Nat} (hi : i < b.data) :
    (rsCodewords bs d)[(bs.map (fun x => min i x.data)).sum + (bs.take j).countP (fun x => decide (i < x.data))]?
      = d[capacityOf (bs.take j) + i]? := by
  have hsizes := map_length_splitBlocks hd
  have hblock := getElem?_splitBlocks (d := d) h
  have hlen : ((d.drop (capacityOf (bs.take j))).take b.data).length = b.data := by
    have hj := congrArg (fun l => l[j]?) hsizes
    simpa [hblock, h] using hj
  have hpos := getElem?_columnMajor hsizes hblock (hlen.symm ▸ hi)
  rw [rsCodewords_eq, List.getElem?_append_left (List.getElem?_eq_some_iff.1 hpos).1, hpos, ← List.getElem?_eq_getElem,
    List.getElem?_take_of_lt hi, List.getElem?_drop]

/-- The parity follows all data, column-major (42_rs.md R205). -/
theorem getElem?_rsCodewords_parity {j : Nat} {b : RsBlock} (h : bs[j]? = some b) {i : Nat} (hi : i < b.ec) :
    (rsCodewords bs d)[capacityOf bs + (bs.map (fun x => min i x.ec)).sum
        + (bs.take j).countP (fun x => decide (i < x.ec))]?
      = (rsParity ((d.drop (capacityOf (bs.take j))).take b.data) b.ec)[i]? := by
  have hlen : i < (rsParity ((d.drop (capacityOf (bs.take j))).take b.data) b.ec).length := by
    rw [length_rsParity]
    exact hi
  rw [rsCodewords_eq, Nat.add_assoc, List.getElem?_append_right (by rw [length_dataColumns hd]; exact Nat.le_add_right _ _),
    length_dataColumns hd, Nat.add_sub_cancel_left,
    getElem?_columnMajor (map_length_parityBlocks bs d) (getElem?_parityBlocks h) hlen, List.getElem?_eq_getElem hlen]

end

/-- The codewords of one block are its data followed by its parity (42_rs.md R205). -/
theorem rsCodewords_singleton {b : RsBlock} {d : List Byte} (hd : d.length = b.data) :
    rsCodewords [b] d = d ++ rsParity d b.ec := by
  simp only [rsCodewords, splitBlocks, List.zipWith_cons_cons, List.zipWith_nil_left, interleave, columnMajor_singleton,
    List.take_of_length_le (Nat.le_of_eq hd)]

/-- Settles O26, by the order of the columns, for the data and for the parity. -/
theorem rsInterleavesTheBlocks : Obligations.RsInterleavesTheBlocks := by
  unfold Obligations.RsInterleavesTheBlocks
  exact ⟨fun _ _ hd => ⟨length_rsCodewords hd, fun _ _ h =>
    ⟨fun _ hi => getElem?_rsCodewords_data hd h hi, fun _ hi => getElem?_rsCodewords_parity hd h hi⟩⟩,
    fun _ _ hd => rsCodewords_singleton hd⟩

end Sys2Proof.Machine
end

section
/-! SUPPORT. RS_ENCODE by its outcomes (42_rs.md R193, R200, R206): an illegal version, a block past DATA_LEN, or the
codewords. -/

namespace Sys2Proof.Machine

/-! ### The checks -/

/-- The first cumulative offset past DATA_LEN, blocks in order (42_rs.md R200). -/
theorem boundsViolation_eq_some {n : Nat} {bs : List RsBlock} : ∀ {off j : Nat}, j < bs.length →
    off + capacityOf (bs.take j) ≤ n → n < off + capacityOf (bs.take (j + 1)) →
    boundsViolation n off bs = some (off + capacityOf (bs.take (j + 1))) := by
  induction bs with
  | nil => intro off j hj; exact absurd hj (Nat.not_lt_zero j)
  | cons b t ih =>
    intro off j hj hfit hpast
    rw [List.take_succ_cons, capacityOf_cons] at hpast ⊢
    rw [boundsViolation]
    cases j with
    | zero => exact if_pos hpast
    | succ j =>
      rw [List.take_succ_cons, capacityOf_cons] at hfit
      rw [if_neg (by omega), ih (Nat.lt_of_succ_lt_succ hj) (by omega) (by omega), Nat.add_assoc]

theorem boundsViolation_eq_none {n : Nat} {bs : List RsBlock} : ∀ {off : Nat}, off + capacityOf bs ≤ n →
    boundsViolation n off bs = none := by
  induction bs with
  | nil => exact fun _ => rfl
  | cons b t ih =>
    intro off h
    rw [capacityOf_cons] at h
    rw [boundsViolation, if_neg (by omega), ih (by omega)]

/-- An entry of the block table has at most 3706 codewords and a capacity of at most 2956, and parity in every block
(42_rs.md R192). -/
theorem blocksSound_bounds {bs : List RsBlock} (h : blocksSound bs = true) :
    (∀ b ∈ bs, b.data < b.total) ∧ (bs.map RsBlock.total).sum ≤ 3706 ∧ capacityOf bs ≤ 2956 := by
  simp only [blocksSound, Bool.and_eq_true, decide_eq_true_eq, List.all_eq_true] at h
  obtain ⟨⟨⟨⟨-, hb⟩, htotal⟩, hcap⟩, -⟩ := h
  exact ⟨fun b hm => (hb b hm).1.1.1, htotal, hcap⟩

/-- An entry of the block table gives as many codewords as the totals of its blocks say (42_rs.md R191). -/
theorem length_rsCodewords_total {bs : List RsBlock} (h : ∀ b ∈ bs, b.data < b.total) {d : List Byte}
    (hd : d.length = capacityOf bs) : (rsCodewords bs d).length = (bs.map RsBlock.total).sum := by
  rw [length_rsCodewords hd, List.sum_map_add, ← capacityOf_add_sum_ec h, capacityOf]

/-! ### The outcomes -/

theorem rsEncodeCheck_illegal {s : State} (h : ¬ legalVersion s) :
    rsEncodeCheck s = .error (.rangeVersion s.cfg.version.toNat) := by
  unfold legalVersion at h
  rw [rsEncodeCheck, rsBlocks_none (by omega)]

theorem rsEncodeCheck_pastDataLen {s : State} {bs : List RsBlock} {off : Nat}
    (hbs : rsBlocks s.cfg.version.toNat (levelOfCode s.cfg.ecl) = some bs)
    (hoff : boundsViolation s.dataLen.toNat 0 bs = some off) : rsEncodeCheck s = .error (.bufferBounds off) := by
  simp only [rsEncodeCheck, hbs, hoff]

theorem rsEncodeCheck_ok {s : State} {bs : List RsBlock}
    (hbs : rsBlocks s.cfg.version.toNat (levelOfCode s.cfg.ecl) = some bs) (hcap : capacityOf bs ≤ s.dataLen.toNat) :
    rsEncodeCheck s = .ok bs := by
  have hfits : boundsViolation s.dataLen.toNat 0 bs = none := boundsViolation_eq_none (by omega)
  simp only [rsEncodeCheck, hbs, hfits]

theorem rsEncode_fails {s : State} {e : CmdError} (h : rsEncodeCheck s = .error e) :
    failsWith .rsEncode s e.code e.info [.cwOut, .cwLen, .res0] :=
  failsWith_of_failUnspecified (by simp only [exec, execRsEncode, h])

/-- A list written from element 0 on is read back; the elements above hold what they held. -/
theorem read_writeFrom_zero (free : Nat → Nat → Byte) (m : Memory Byte) (vs : List Byte) (k : Nat) :
    (m.writeFrom 0 vs).read free k = vs.getD k (m.read free k) := by
  rw [Memory.read_writeFrom, if_pos (Nat.zero_le k), Nat.sub_zero]

theorem exec_rsEncode_of_ok {s : State} {bs : List RsBlock} (h : rsEncodeCheck s = .ok bs) :
    exec .rsEncode s = .next { s with
      seq := .idle
      done := true
      cwOut := s.cwOut.writeFrom 0 (rsCodewords bs (s.elems .cwIn (capacityOf bs)))
      cwLen := BitVec.ofNat 13 (rsCodewords bs (s.elems .cwIn (capacityOf bs))).length
      res0 := BitVec.ofNat 32 (capacityOf bs) } := by
  simp only [exec, execRsEncode, h, State.complete]

/-- Where the checks pass, RS_ENCODE completes with the codewords in CW_OUT; their number and the capacity fit CW_LEN and RES0
(42_rs.md R206). -/
theorem exec_rsEncode_codewords {s : State} {bs : List RsBlock} (h : rsEncodeCheck s = .ok bs) :
    ∃ t, exec .rsEncode s = .next t ∧ succeeded s t ∧ t.cwLen.toNat = (bs.map RsBlock.total).sum ∧
      t.res0.toNat = capacityOf bs ∧
      ∀ k, t.elem .cwOut k = (rsCodewords bs (s.elems .cwIn (capacityOf bs))).getD k (s.elem .cwOut k) := by
  obtain ⟨hparity, htotal, hcapacity⟩ := blocksSound_bounds (blocksSound_of_rsEncodeCheck h)
  have hlen := length_rsCodewords_total hparity (s.length_elems .cwIn (capacityOf bs))
  refine ⟨_, exec_rsEncode_of_ok h, ⟨rfl, rfl, rfl, rfl, rfl⟩, ?_, ?_, read_writeFrom_zero _ s.cwOut _⟩
  · rw [BitVec.toNat_ofNat, hlen, Nat.mod_eq_of_lt (by omega)]
  · rw [BitVec.toNat_ofNat, Nat.mod_eq_of_lt (by omega)]

/-- Settles O24: a legal version has a table entry, and the codewords are written from element 0 on. -/
theorem rsEncodeWritesTheCodewords : Obligations.RsEncodeWritesTheCodewords := by
  unfold Obligations.RsEncodeWritesTheCodewords
  intro s hv
  obtain ⟨bs, hbs, hsound⟩ := rsBlocks_spec hv.1 hv.2 (levelOfCode s.cfg.ecl)
  obtain ⟨hparity, -, -⟩ := blocksSound_bounds hsound
  refine ⟨bs, hbs, fun hcap => ?_⟩
  obtain ⟨t, ht, hsucc, hcwLen, hres, hread⟩ := exec_rsEncode_codewords (rsEncodeCheck_ok hbs hcap)
  have hlen : (rsCodewords bs (s.elems .cwIn (capacityOf bs))).length = t.cwLen.toNat := by
    rw [hcwLen, length_rsCodewords_total hparity (s.length_elems .cwIn _)]
  refine ⟨t, ht, hsucc, exec_writesRow .rsEncode s t ht, hcwLen, hres, fun k hk => ?_, fun k hk => ?_⟩
  · have hk' := hlen ▸ hk
    rw [hread, List.getD_eq_getElem _ _ hk', List.getElem?_eq_getElem hk']
  · rw [hread, List.getD_eq_default _ _ (hlen ▸ hk)]

/-- Settles O27: each clause is one outcome of the checks, which R200 orders. -/
theorem rsEncodeReportsTheFirstError : Obligations.RsEncodeReportsTheFirstError := by
  unfold Obligations.RsEncodeReportsTheFirstError
  refine fun s => ⟨fun hv => ?_, fun bs j hbs hj hpast hfit => ?_⟩
  · have hinfo : (CmdError.rangeVersion s.cfg.version.toNat).info = s.cfg.version.setWidth 32 := by
      rw [CmdError.info, BitVec.ofNat_toNat]
    exact hinfo ▸ rsEncode_fails (rsEncodeCheck_illegal hv)
  · have hoff := boundsViolation_eq_some (off := 0) hj ((Nat.zero_add _).trans_le hfit) (hpast.trans_eq (Nat.zero_add _).symm)
    rw [Nat.zero_add] at hoff
    exact rsEncode_fails (rsEncodeCheck_pastDataLen hbs hoff)

end Sys2Proof.Machine
end

section
/-! SUPPORT. One cell of an area after a list of writes, and after each structural pattern (43_placer.md). -/

namespace Sys2Proof.Machine

/-! ### One cell after a list of writes -/

theorem Board.paint_append (g : Board) (ps qs : List Paint) : g.paint (ps ++ qs) = (g.paint ps).paint qs :=
  List.foldl_append

section
variable {dim : Nat} {g : Board} {ps : List Paint} (h : g.shape dim) (hin : paintsInside dim ps)
include h hin

/-- A list that writes a cell under one condition, with one value. -/
theorem Board.at_paint_of_mem_iff {r c : Nat} {v : CellValue} {P : Prop} [Decidable P]
    (hmem : ∀ x, ((r, c), x) ∈ ps ↔ P ∧ x = v) : (g.paint ps).at r c = if P then v else g.at r c := by
  have hsame : ∀ p ∈ ps, p.1 = (r, c) → P ∧ p.2 = v := fun p hp e => (hmem p.2).1 (e ▸ hp)
  split
  next hP => exact Board.at_paint_mem ps h hin ((hmem v).2 ⟨hP, rfl⟩) (fun p hp e => (hsame p hp e).2)
  next hP => exact Board.at_paint_other ps h hin (fun p hp e => hP (hsame p hp e).1)

/-- A list that names no cell twice leaves every cell it names with its value. -/
theorem Board.at_paint_of_nodup (hnd : (ps.map Prod.fst).Nodup) {r c : Nat} {v : CellValue} (hp : ((r, c), v) ∈ ps) :
    (g.paint ps).at r c = v :=
  Board.at_paint_mem ps h hin hp (fun _ hq e => congrArg Prod.snd (List.inj_on_of_nodup_map hnd hq hp e))

end

/-! ### Finder patterns -/

theorem mem_finderOffsets (x : Int) : x ∈ finderOffsets ↔ -1 ≤ x ∧ x ≤ 7 := by
  simp only [finderOffsets, List.mem_cons, List.not_mem_nil, or_false]
  omega

/-- The cell lies in the 9 x 9 window of the finder with top-left corner (R, C) (R222). -/
abbrev inFinderWindow (R C : Int) (r c : Nat) : Prop := R - 1 ≤ r ∧ r ≤ R + 7 ∧ C - 1 ≤ c ∧ c ≤ C + 7

theorem mem_finderPaints {dim : Nat} {R C : Int} {r c : Nat} (hr : r < dim) (hc : c < dim) (v : CellValue) :
    ((r, c), v) ∈ finderPaints dim R C ↔ inFinderWindow R C r c ∧ v = cellOfBool (finderDark (r - R) (c - C)) := by
  simp only [finderPaints, List.mem_flatMap, List.mem_filterMap, mem_finderOffsets]
  constructor
  · rintro ⟨i, hi, j, hj, h⟩
    split at h
    next hin =>
      cases h
      refine ⟨by omega, ?_⟩
      rw [Int.toNat_of_nonneg (by omega), Int.toNat_of_nonneg (by omega), add_sub_cancel_left, add_sub_cancel_left]
    next => cases h
  · rintro ⟨hw, rfl⟩
    refine ⟨r - R, by omega, c - C, by omega, ?_⟩
    rw [if_pos (by omega), add_sub_cancel, add_sub_cancel, Int.toNat_natCast, Int.toNat_natCast]

theorem Board.at_paint_finder {dim : Nat} {g : Board} (h : g.shape dim) (R C : Int) {r c : Nat} (hr : r < dim) (hc : c < dim) :
    (g.paint (finderPaints dim R C)).at r c =
      if inFinderWindow R C r c then cellOfBool (finderDark (r - R) (c - C)) else g.at r c :=
  Board.at_paint_of_mem_iff h (paintsInside_finder dim R C) (mem_finderPaints hr hc)

/-- The three windows do not meet, so the order in which they are drawn does not matter. -/
theorem at_placeFinders {dim : Nat} (hdim : 21 ≤ dim) {g : Board} (h : g.shape dim) {r c : Nat} (hr : r < dim) (hc : c < dim) :
    (placeFinders dim g).at r c =
      if r ≤ 7 ∧ c ≤ 7 then cellOfBool (finderDark r c)
      else if dim - 8 ≤ r ∧ c ≤ 7 then cellOfBool (finderDark (r - (dim - 7 : Int)) c)
      else if r ≤ 7 ∧ dim - 8 ≤ c then cellOfBool (finderDark r (c - (dim - 7 : Int)))
      else g.at r c := by
  have hTopLeft : inFinderWindow 0 0 r c ↔ r ≤ 7 ∧ c ≤ 7 := by omega
  have hBottomLeft : inFinderWindow (dim - 7) 0 r c ↔ dim - 8 ≤ r ∧ c ≤ 7 := by omega
  have hTopRight : inFinderWindow 0 (dim - 7) r c ↔ r ≤ 7 ∧ dim - 8 ≤ c := by omega
  have h₁ := Board.shape_paint (finderPaints dim 0 0) h
  have h₂ := Board.shape_paint (finderPaints dim (dim - 7) 0) h₁
  simp only [placeFinders, Board.paint_append, Board.at_paint_finder h₂ _ _ hr hc, Board.at_paint_finder h₁ _ _ hr hc,
    Board.at_paint_finder h _ _ hr hc, hTopLeft, hBottomLeft, hTopRight, sub_zero]
  by_cases hTL : r ≤ 7 ∧ c ≤ 7
  · rw [if_neg (by omega), if_neg (by omega), if_pos hTL, if_pos hTL]
  · rw [if_neg hTL, if_neg hTL]
    by_cases hBL : dim - 8 ≤ r ∧ c ≤ 7
    · rw [if_neg (by omega), if_pos hBL, if_pos hBL]
    · rw [if_neg hBL, if_neg hBL]

/-! ### Alignment patterns -/

/-- The cell is one of the 25 around the centre `p` (R225). -/
abbrev inFootprint (p : Nat × Nat) (r c : Nat) : Prop := r ≤ p.1 + 2 ∧ p.1 ≤ r + 2 ∧ c ≤ p.2 + 2 ∧ p.2 ≤ c + 2

/-- What the pattern centred at `p` shows at a cell of its footprint (R225). -/
def alignCell (p : Nat × Nat) (r c : Nat) : CellValue := cellOfBool (alignDark (r + 2 - p.1) (c + 2 - p.2))

theorem mem_alignPaints {p : Nat × Nat} (hr : 2 ≤ p.1) (hc : 2 ≤ p.2) {r c : Nat} (v : CellValue) :
    ((r, c), v) ∈ alignPaints p.1 p.2 ↔ inFootprint p r c ∧ v = alignCell p r c := by
  simp only [alignPaints, alignCell, List.mem_flatMap, List.mem_map, List.mem_range, Prod.mk.injEq]
  constructor
  · rintro ⟨i, hi, j, hj, ⟨rfl, rfl⟩, rfl⟩
    rw [show p.1 + i - 2 + 2 - p.1 = i by omega, show p.2 + j - 2 + 2 - p.2 = j by omega]
    exact ⟨by omega, rfl⟩
  · rintro ⟨hin, rfl⟩
    exact ⟨r + 2 - p.1, by omega, c + 2 - p.2, by omega, by omega, rfl⟩

/-- Two patterns of a version have no cell in common: their centres are at least five apart on one axis. -/
def footprintsApart (p q : Nat × Nat) : Prop := ∀ r c, inFootprint p r c → ¬ inFootprint q r c

theorem pairwise_alignCentres {v : Nat} (hv : v ≤ 40) : (alignCentres v).Pairwise footprintsApart := by
  have h : ∀ v ≤ 40, (alignPositions v).Pairwise (fun a b => a + 5 ≤ b) := by decide
  refine List.pairwise_flatMap.2 ⟨fun r _ => List.pairwise_map.2 ((h v hv).imp fun hab i j => by omega),
    (h v hv).imp fun hab p hp q hq i j => ?_⟩
  obtain ⟨_, -, rfl⟩ := List.mem_map.1 hp
  obtain ⟨_, -, rfl⟩ := List.mem_map.1 hq
  omega

section
variable {v : Nat} (hv : v ≤ 40)
include hv

theorem at_placeAlignment {g : Board} (h : g.shape (dimOf v)) {p : Nat × Nat} (hp : p ∈ alignCentres v) (r c : Nat) :
    (placeAlignment g p).at r c = if inFootprint p r c ∧ g.at p.1 p.2 = .unset then alignCell p r c else g.at r c := by
  obtain ⟨hr, -, hc, -⟩ := alignCentres_inside v hv p hp
  unfold placeAlignment
  split
  next hu =>
    simp only [hu, and_true]
    exact Board.at_paint_of_mem_iff h (paintsInside_align hv hp) (mem_alignPaints (by omega) (by omega))
  next hu => rw [if_neg (fun hin => hu hin.2)]

theorem at_placeAlignment_outside {g : Board} (h : g.shape (dimOf v)) {p : Nat × Nat} (hp : p ∈ alignCentres v) {r c : Nat}
    (hout : ¬ inFootprint p r c) : (placeAlignment g p).at r c = g.at r c := by
  rw [at_placeAlignment hv h hp, if_neg (fun hin => hout hin.1)]

/-- A cell of no footprint keeps its value. -/
theorem at_foldl_placeAlignment_outside {r c : Nat} : ∀ {l : List (Nat × Nat)} {g : Board}, g.shape (dimOf v) →
    (∀ p ∈ l, p ∈ alignCentres v) → (∀ p ∈ l, ¬ inFootprint p r c) → (l.foldl placeAlignment g).at r c = g.at r c := by
  intro l
  induction l with
  | nil => exact fun _ _ _ => rfl
  | cons p t ih =>
    intro g h hl hout
    obtain ⟨hp, ht⟩ := List.forall_mem_cons.1 hl
    obtain ⟨hpout, htout⟩ := List.forall_mem_cons.1 hout
    rw [List.foldl_cons, ih (shape_placeAlignment h p) ht htout, at_placeAlignment_outside hv h hp hpout]

/-- A cell of a footprint shows the pattern when the centre was unset in the beginning: no other pattern touches the cell or
the centre. -/
theorem at_foldl_placeAlignment {p : Nat × Nat} {r c : Nat} (hin : inFootprint p r c) :
    ∀ {l : List (Nat × Nat)} {g : Board}, g.shape (dimOf v) → (∀ q ∈ l, q ∈ alignCentres v) → l.Pairwise footprintsApart →
      p ∈ l → (l.foldl placeAlignment g).at r c = if g.at p.1 p.2 = .unset then alignCell p r c else g.at r c := by
  intro l
  induction l with
  | nil => exact fun _ _ _ hp => absurd hp List.not_mem_nil
  | cons q t ih =>
    intro g h hl hapart hp
    obtain ⟨hq, ht⟩ := List.forall_mem_cons.1 hl
    obtain ⟨hqt, htt⟩ := List.pairwise_cons.1 hapart
    have hshape := shape_placeAlignment h q
    rw [List.foldl_cons]
    rcases List.mem_cons.1 hp with rfl | hpt
    · rw [at_foldl_placeAlignment_outside hv hshape ht (fun u hu => hqt u hu r c hin), at_placeAlignment hv h hq]
      exact if_congr (and_iff_right hin) rfl rfl
    · have hcell : ¬ inFootprint q r c := fun hin' => hqt p hpt r c hin' hin
      have hcentre : ¬ inFootprint q p.1 p.2 := fun hin' => hqt p hpt p.1 p.2 hin' (by omega)
      rw [ih hshape ht htt hpt, at_placeAlignment_outside hv h hq hcell, at_placeAlignment_outside hv h hq hcentre]

end

/-! ### Timing patterns -/

theorem at_placeTimingCell {dim : Nat} {g : Board} (h : g.shape dim) {p : Nat × Nat} (hr : p.1 < dim) (hc : p.2 < dim)
    (k r c : Nat) : (placeTimingCell g p.1 p.2 k).at r c =
      if g.at r c = .unset ∧ p = (r, c) then cellOfBool (k % 2 == 0) else g.at r c := by
  unfold placeTimingCell
  by_cases hp : p = (r, c)
  · subst hp
    split <;> simp_all [Board.at_put h hr hc]
  · have hne : ¬ (r = p.1 ∧ c = p.2) := fun e => hp (Prod.ext e.1.symm e.2.symm)
    split <;> simp [Board.at_put h hr hc, hp, hne]

section
variable {dim : Nat} {pos : Nat → Nat × Nat}

theorem shape_timingLine (l : List Nat) : ∀ {g : Board}, g.shape dim →
    (l.foldl (fun g i => placeTimingCell g (pos i).1 (pos i).2 i) g).shape dim := by
  induction l with
  | nil => exact id
  | cons i t ih => exact fun h => ih (shape_placeTimingCell h _ _ _)

/-- One timing line, with coordinate `i` at `pos i`: `P` says that the cell lies on the line, and `k` is then its coordinate. -/
theorem at_timingLine (hpos : ∀ i < dim, (pos i).1 < dim ∧ (pos i).2 < dim) {r c k : Nat} {P : Prop} [Decidable P]
    (hk : ∀ i, pos i = (r, c) ↔ P ∧ i = k) {g : Board} (h : g.shape dim) : ∀ n ≤ dim,
    ((List.range n).foldl (fun g i => placeTimingCell g (pos i).1 (pos i).2 i) g).at r c =
      if g.at r c = .unset ∧ P ∧ k < n then cellOfBool (k % 2 == 0) else g.at r c := by
  intro n
  induction n with
  | zero => simp
  | succ n ih =>
    intro hn
    obtain ⟨hr, hc⟩ := hpos n hn
    rw [List.range_succ, List.foldl_append, List.foldl_cons, List.foldl_nil, at_placeTimingCell (shape_timingLine _ h) hr hc,
      ih (by omega)]
    rcases eq_or_ne n k with rfl | hnk
    · simp [hk]
    · have hlt : k < n + 1 ↔ k < n := by omega
      simp [hk, hnk, hlt]

end

theorem cellOfBool_ne_unset (b : Bool) : cellOfBool b ≠ .unset := by cases b <;> decide

theorem cellOfBool_eq_dark_iff (b : Bool) : cellOfBool b = .dark ↔ b = true := by cases b <;> decide

/-- Column 6 is drawn first, so at cell (6, 6) row 6 finds a set cell (R231). -/
theorem at_placeTimings {dim : Nat} (hdim : 21 ≤ dim) {g : Board} (h : g.shape dim) {r c : Nat} (hr : r < dim) (hc : c < dim) :
    (placeTimings dim g).at r c =
      if g.at r c = .unset ∧ c = 6 then (if r % 2 = 0 then .dark else .light)
      else if g.at r c = .unset ∧ r = 6 then (if c % 2 = 0 then .dark else .light)
      else g.at r c := by
  have hcolumn := at_timingLine (pos := fun i => (i, 6)) (r := r) (c := c) (k := r) (P := c = 6)
    (fun i hi => ⟨hi, by omega⟩) (fun i => by simp only [Prod.mk.injEq]; omega) h dim le_rfl
  have hrow := at_timingLine (pos := fun i => (6, i)) (r := r) (c := c) (k := c) (P := r = 6)
    (fun i hi => ⟨by omega, hi⟩) (fun i => by simp only [Prod.mk.injEq]; omega)
    (shape_timingLine (pos := fun i => (i, 6)) (List.range dim) h) dim le_rfl
  have hvalue : ∀ k, (if k % 2 = 0 then CellValue.dark else .light) = cellOfBool (k % 2 == 0) := fun k => by simp [cellOfBool]
  rw [placeTimings, hrow, hcolumn, hvalue, hvalue]
  by_cases hu : g.at r c = .unset
  · by_cases hc6 : c = 6
    · subst hc6
      simp [hu, hr, cellOfBool_ne_unset]
    · simp [hu, hc6, hc]
  · simp [hu]

/-! ### Format information -/

theorem formatVertical_inj {dim i j : Nat} (hdim : 21 ≤ dim) (h : formatVertical dim i = formatVertical dim j) : i = j := by
  unfold formatVertical at h
  split_ifs at h <;> simp only [Prod.mk.injEq] at h <;> omega

theorem formatHorizontal_inj {dim i j : Nat} (hdim : 21 ≤ dim) (hi : i < 15) (hj : j < 15)
    (h : formatHorizontal dim i = formatHorizontal dim j) : i = j := by
  unfold formatHorizontal at h
  split_ifs at h <;> simp only [Prod.mk.injEq] at h <;> omega

/-- The vertical strip lies in column 8, outside the horizontal strip's cells and the dark module (R235). -/
theorem formatVertical_cells {dim i : Nat} (hdim : 21 ≤ dim) (hi : i < 15) : (formatVertical dim i).2 = 8 ∧
    ((formatVertical dim i).1 ≤ 5 ∨ (formatVertical dim i).1 = 7 ∨ (formatVertical dim i).1 = 8 ∨
      dim - 8 < (formatVertical dim i).1) := by
  unfold formatVertical
  split_ifs <;> dsimp only <;> omega

/-- The horizontal strip lies in row 8, outside column 8 (R235). -/
theorem formatHorizontal_cells {dim i : Nat} (hdim : 21 ≤ dim) (hi : i < 15) : (formatHorizontal dim i).1 = 8 ∧
    ((formatHorizontal dim i).2 ≤ 5 ∨ (formatHorizontal dim i).2 = 7 ∨
      dim - 8 ≤ (formatHorizontal dim i).2 ∧ (formatHorizontal dim i).2 < dim) := by
  unfold formatHorizontal
  split_ifs <;> dsimp only <;> omega

/-- The format cells are 31 different ones. -/
theorem nodup_formatCells {dim : Nat} (hdim : 21 ≤ dim) (e m : Nat) (test : Bool) :
    ((formatPaints dim e m test).map Prod.fst).Nodup := by
  have hvertical : ((List.range 15).map (formatVertical dim)).Nodup :=
    List.nodup_range.map_on fun _ _ _ _ => formatVertical_inj hdim
  have hhorizontal : ((List.range 15).map (formatHorizontal dim)).Nodup :=
    List.nodup_range.map_on fun _ hi _ hj => formatHorizontal_inj hdim (List.mem_range.1 hi) (List.mem_range.1 hj)
  simp only [formatPaints, List.map_append, List.map_map, Function.comp_def, List.map_cons, List.map_nil]
  refine List.nodup_append.2 ⟨List.nodup_append.2 ⟨hvertical, hhorizontal, ?_⟩, List.nodup_singleton _, ?_⟩
  · intro p hp q hq hpq
    obtain ⟨i, hi, rfl⟩ := List.mem_map.1 hp
    obtain ⟨j, hj, rfl⟩ := List.mem_map.1 hq
    have hv := formatVertical_cells hdim (List.mem_range.1 hi)
    have hh := formatHorizontal_cells hdim (List.mem_range.1 hj)
    rw [hpq] at hv
    omega
  · intro p hp q hq hpq
    simp only [List.mem_append, List.mem_map, List.mem_range] at hp
    rw [List.mem_singleton.1 hq] at hpq
    rcases hp with ⟨i, hi, rfl⟩ | ⟨i, hi, rfl⟩
    · have hv := formatVertical_cells hdim hi
      rw [hpq] at hv
      omega
    · have hh := formatHorizontal_cells hdim hi
      rw [hpq] at hh
      omega

/-- The value of bit i in the format strips (R236). -/
def formatBit (e m : Nat) (test : Bool) (i : Nat) : CellValue := cellOfBool (!test && (formatWord e m).testBit i)

theorem mem_formatPaints {dim e m : Nat} {test : Bool} {p : Paint} : p ∈ formatPaints dim e m test ↔
    (∃ i < 15, p = (formatVertical dim i, formatBit e m test i)) ∨
      (∃ i < 15, p = (formatHorizontal dim i, formatBit e m test i)) ∨ p = ((dim - 8, 8), cellOfBool (!test)) := by
  simp only [formatPaints, formatBit, List.mem_append, List.mem_map, List.mem_range, List.mem_singleton, or_assoc, eq_comm]

section
variable {dim : Nat} (hdim : 21 ≤ dim) {g : Board} (h : g.shape dim) (e m : Nat) (test : Bool)
include hdim h

theorem at_placeFormats {r c : Nat} {v : CellValue} (hp : ((r, c), v) ∈ formatPaints dim e m test) :
    (placeFormats dim e m test g).at r c = v :=
  Board.at_paint_of_nodup h (paintsInside_format hdim) (nodup_formatCells hdim e m test) hp

theorem at_placeFormats_vertical {i : Nat} (hi : i < 15) :
    (placeFormats dim e m test g).at (formatVertical dim i).1 (formatVertical dim i).2 = formatBit e m test i :=
  at_placeFormats hdim h e m test (mem_formatPaints.2 (.inl ⟨i, hi, rfl⟩))

theorem at_placeFormats_horizontal {i : Nat} (hi : i < 15) :
    (placeFormats dim e m test g).at (formatHorizontal dim i).1 (formatHorizontal dim i).2 = formatBit e m test i :=
  at_placeFormats hdim h e m test (mem_formatPaints.2 (.inr (.inl ⟨i, hi, rfl⟩)))

theorem at_placeFormats_darkModule : (placeFormats dim e m test g).at (dim - 8) 8 = cellOfBool (!test) :=
  at_placeFormats hdim h e m test (mem_formatPaints.2 (.inr (.inr rfl)))

theorem at_placeFormats_other {r c : Nat} (hv : ¬ (c = 8 ∧ (r ≤ 5 ∨ r = 7 ∨ r = 8 ∨ dim - 8 ≤ r)))
    (hh : ¬ (r = 8 ∧ (c ≤ 5 ∨ c = 7 ∨ dim - 8 ≤ c))) : (placeFormats dim e m test g).at r c = g.at r c := by
  refine Board.at_paint_other _ h (paintsInside_format hdim) fun p hp hcell => ?_
  rcases mem_formatPaints.1 hp with ⟨i, hi, rfl⟩ | ⟨i, hi, rfl⟩ | rfl
  · have hcells := formatVertical_cells hdim hi
    rw [show formatVertical dim i = (r, c) from hcell] at hcells
    omega
  · have hcells := formatHorizontal_cells hdim hi
    rw [show formatHorizontal dim i = (r, c) from hcell] at hcells
    omega
  · simp only [Prod.mk.injEq] at hcell
    omega

end

/-- The format word holds the level code, the mask and the BCH remainder of both, under its mask pattern (R234, R238). -/
theorem formatWord_fields : ∀ e < 4, ∀ m < 8, formatWord e m < 2 ^ 15 ∧ (formatWord e m ^^^ g15Mask) / 2 ^ 13 = e ∧
    (formatWord e m ^^^ g15Mask) / 2 ^ 10 % 8 = m ∧ (formatWord e m ^^^ g15Mask) % 2 ^ 10 =
      bchrem ((formatWord e m ^^^ g15Mask) / 2 ^ 10 * 2 ^ 10) g15 := by
  decide

/-- Numbers below 2^n are equal when their lowest n bits are. -/
theorem eq_of_testBit_below {n a b : Nat} (ha : a < 2 ^ n) (hb : b < 2 ^ n)
    (h : ∀ i < n, (a.testBit i = true ↔ b.testBit i = true)) : a = b := by
  refine Nat.eq_of_testBit_eq fun i => ?_
  rcases Nat.lt_or_ge i n with hi | hi
  · exact Bool.eq_iff_iff.2 (h i hi)
  · have hpow : 2 ^ n ≤ 2 ^ i := Nat.pow_le_pow_right (by omega) hi
    rw [Nat.testBit_lt_two_pow (ha.trans_le hpow), Nat.testBit_lt_two_pow (hb.trans_le hpow)]

/-! ### Version information -/

/-- The value of bit i in the version blocks (R240). -/
def versionBit (v : Nat) (test : Bool) (i : Nat) : CellValue := cellOfBool (!test && (versionWord v).testBit i)

theorem mem_versionPaints {v : Nat} {test : Bool} {p : Paint} : p ∈ versionPaints v test ↔
    (∃ i < 18, p = ((i / 3, i % 3 + dimOf v - 11), versionBit v test i)) ∨
      (∃ i < 18, p = ((i % 3 + dimOf v - 11, i / 3), versionBit v test i)) := by
  simp only [versionPaints, versionBit, List.mem_append, List.mem_map, List.mem_range, eq_comm]

section
variable {v : Nat} (hv : 7 ≤ v) {g : Board} (h : g.shape (dimOf v)) (test : Bool)
include hv

/-- The version cells are 36 different ones. -/
theorem nodup_versionCells : ((versionPaints v test).map Prod.fst).Nodup := by
  simp only [versionPaints, dimOf, List.map_append, List.map_map, Function.comp_def]
  refine List.nodup_append.2 ⟨List.nodup_range.map_on fun i _ j _ hij => ?_, List.nodup_range.map_on fun i _ j _ hij => ?_,
    fun p hp q hq hpq => ?_⟩
  · simp only [Prod.mk.injEq] at hij
    omega
  · simp only [Prod.mk.injEq] at hij
    omega
  · obtain ⟨i, hi, rfl⟩ := List.mem_map.1 hp
    obtain ⟨j, hj, rfl⟩ := List.mem_map.1 hq
    simp only [List.mem_range, Prod.mk.injEq] at hi hj hpq
    omega

include h

theorem at_placeVersions {r c : Nat} {x : CellValue} (hp : ((r, c), x) ∈ versionPaints v test) :
    (placeVersions v test g).at r c = x := by
  rw [placeVersions, if_neg (by omega)]
  exact Board.at_paint_of_nodup h (paintsInside_version (by omega)) (nodup_versionCells hv test) hp

theorem at_placeVersions_topRight {i : Nat} (hi : i < 18) :
    (placeVersions v test g).at (i / 3) (i % 3 + dimOf v - 11) = versionBit v test i :=
  at_placeVersions hv h test (mem_versionPaints.2 (.inl ⟨i, hi, rfl⟩))

theorem at_placeVersions_bottomLeft {i : Nat} (hi : i < 18) :
    (placeVersions v test g).at (i % 3 + dimOf v - 11) (i / 3) = versionBit v test i :=
  at_placeVersions hv h test (mem_versionPaints.2 (.inr ⟨i, hi, rfl⟩))

theorem at_placeVersions_other {r c : Nat} (htr : ¬ (r ≤ 5 ∧ dimOf v - 11 ≤ c ∧ c ≤ dimOf v - 9))
    (hbl : ¬ (c ≤ 5 ∧ dimOf v - 11 ≤ r ∧ r ≤ dimOf v - 9)) : (placeVersions v test g).at r c = g.at r c := by
  rw [placeVersions, if_neg (by omega)]
  refine Board.at_paint_other _ h (paintsInside_version (by omega)) fun p hp hcell => ?_
  unfold dimOf at htr hbl
  rcases mem_versionPaints.1 hp with ⟨i, hi, rfl⟩ | ⟨i, hi, rfl⟩
  · simp only [Prod.mk.injEq, dimOf] at hcell
    omega
  · simp only [Prod.mk.injEq, dimOf] at hcell
    omega

end

end Sys2Proof.Machine
end

section
/-! SUPPORT. The placing commands (43_placer.md): what each does to the cells of the state. -/

namespace Sys2Proof.Machine

theorem cfgVersion_legal {s : State} (h : legalVersion s) : s.cfgVersion = .ok s.cfg.version := if_pos h

theorem cfgVersion_illegal {s : State} (h : ¬ legalVersion s) : s.cfgVersion = .error (.rangeVersion s.cfg.version.toNat) :=
  if_neg h

/-- A legal version is stored with an empty area of its own size. -/
theorem exec_gridClear_legal {s : State} (h : legalVersion s) : ∃ t, exec .gridClear s = .next t ∧ succeeded s t ∧
    t.gridVer = s.cfg.version ∧ ∀ r c, c < 256 → t.cell r c = .unset := by
  simp only [exec, execGridClear, cfgVersion_legal h]
  refine ⟨_, rfl, ⟨rfl, rfl, rfl, rfl, rfl⟩, rfl, fun r c hc => ?_⟩
  have hle : dimOf s.cfg.version.toNat ≤ 256 := by have := h.2; unfold dimOf; omega
  exact (read_memoryOf (Board.shape_le (Board.shape_empty _) hle) hc).trans (Board.at_empty _ _ _)

/-- The information of an illegal version is the version (60_exceptions.md R301). -/
theorem CmdError.info_rangeVersion (v : BitVec 6) : (CmdError.rangeVersion v.toNat).info = v.setWidth 32 := by
  rw [CmdError.info, BitVec.ofNat_toNat]

theorem exec_gridClear_illegal {s : State} (h : ¬ legalVersion s) :
    exec .gridClear s = s.failUnspecified .gridClear (.rangeVersion s.cfg.version.toNat) := by
  simp only [exec, execGridClear, cfgVersion_illegal h]

/-- A legal version in GRID_VER gives the area its own side. -/
theorem State.dim_of_legal {s : State} (h1 : 1 ≤ s.gridVer.toNat) (h40 : s.gridVer.toNat ≤ 40) :
    s.dim = dimOf s.gridVer.toNat := by
  have hne : s.gridVer ≠ 0 := fun h => by simp [h] at h1
  rw [s.dim_eq hne, s.version_eq h40]

/-- The smallest area is that of version 1. -/
theorem State.le_dim {s : State} (h : s.gridVer ≠ 0) : 21 ≤ s.dim := by
  have := s.version_pos h
  rw [s.dim_eq h, dimOf]
  omega

/-- Settles O28: the area of a legal version is stored empty, and an illegal version ends in the version error. -/
theorem gridClearMakesTheEmptyGrid : Obligations.GridClearMakesTheEmptyGrid := by
  unfold Obligations.GridClearMakesTheEmptyGrid
  refine fun s => ⟨fun hv => ?_, fun hv => ?_⟩
  · obtain ⟨t, ht, hsucc, hver, hcell⟩ := exec_gridClear_legal hv
    have hdim : t.dim = dimOf s.cfg.version.toNat := hver ▸ State.dim_of_legal (hver ▸ hv.1) (hver ▸ hv.2)
    have hdim177 := t.dim_le
    exact ⟨t, ht, hsucc, exec_writesRow .gridClear s t ht, hver, hdim, fun r c _ hc => hcell r c (by omega)⟩
  · exact CmdError.info_rangeVersion s.cfg.version ▸ failsWith_of_failUnspecified (exec_gridClear_illegal hv)

/-- Settles O29: the three finders are drawn over windows that do not meet. -/
theorem placeFinderDrawsThreeFinders : Obligations.PlaceFinderDrawsThreeFinders := by
  unfold Obligations.PlaceFinderDrawsThreeFinders
  intro s hv
  obtain ⟨t, ht, hsucc, hframe, -, hcell⟩ :=
    s.withGrid_spec .placeFinder (placeFinders s.dim) hv (shape_placeFinders s.shape_board)
  refine ⟨t, ht, hsucc, hframe, fun r c hr hc => ?_⟩
  have := s.dim_le
  rw [hcell r c (by omega), at_placeFinders (State.le_dim hv) s.shape_board hr hc, s.at_board hr hc]

/-- Settles O30: the patterns of a version have no cell in common, so each centre is read as it was in the beginning. -/
theorem placeAlignDrawsOnUnsetCentres : Obligations.PlaceAlignDrawsOnUnsetCentres := by
  unfold Obligations.PlaceAlignDrawsOnUnsetCentres
  intro s hv
  have h40 := s.version_le
  have hdim := s.dim_eq hv
  have hshape : s.board.shape (dimOf s.version) := hdim ▸ s.shape_board
  obtain ⟨t, ht, hsucc, hframe, -, hcell⟩ :=
    s.withGrid_spec .placeAlign (placeAlignments s.version) hv (shape_placeAlignments s.shape_board)
  have hdim177 := s.dim_le
  refine ⟨t, ht, hsucc, hframe, fun p hp i j hi hj => ?_, fun r c hr hc hout => ?_⟩
  · obtain ⟨hr1, hr2, hc1, hc2⟩ := alignCentres_inside _ h40 p hp
    have hin : inFootprint p (p.1 + i - 2) (p.2 + j - 2) := by omega
    rw [hcell _ _ (by omega), placeAlignments,
      at_foldl_placeAlignment h40 hin hshape (fun _ hq => hq) (pairwise_alignCentres h40) hp, s.at_board (by omega) (by omega), s.at_board (by omega) (by omega), alignCell,
      show p.1 + i - 2 + 2 - p.1 = i by omega, show p.2 + j - 2 + 2 - p.2 = j by omega]
    rfl
  · rw [hcell _ _ (by omega), placeAlignments, at_foldl_placeAlignment_outside h40 hshape (fun _ hq => hq) hout, s.at_board hr hc]

/-- Settles O31: column 6, then row 6, cell by cell. -/
theorem placeTimingFillsTheTimingLines : Obligations.PlaceTimingFillsTheTimingLines := by
  unfold Obligations.PlaceTimingFillsTheTimingLines
  intro s hv
  obtain ⟨t, ht, hsucc, hframe, -, hcell⟩ :=
    s.withGrid_spec .placeTiming (placeTimings s.dim) hv (shape_placeTimings s.shape_board)
  refine ⟨t, ht, hsucc, hframe, fun r c hr hc => ?_⟩
  have := s.dim_le
  rw [hcell r c (by omega), at_placeTimings (State.le_dim hv) s.shape_board hr hc, s.at_board hr hc]

/-- Settles O32: the 31 format cells are different cells, so each holds the value it is given. -/
theorem placeFormatWritesBothStrips : Obligations.PlaceFormatWritesBothStrips := by
  unfold Obligations.PlaceFormatWritesBothStrips
  intro s hv
  have hdim := State.le_dim hv
  have hdim177 := s.dim_le
  obtain ⟨t, ht, hsucc, hframe, -, hcell⟩ :=
    s.withGrid_spec .placeFormat (placeFormats s.dim s.cfg.ecl.toNat s.cfg.mask.toNat s.cfg.test) hv
      (shape_placeFormats s.shape_board)
  refine ⟨t, ht, hsucc, hframe, fun i hi => ⟨?_, ?_⟩, ?_, fun r c hr hc hvertical hhorizontal => ?_⟩
  · have hcolumn := (formatVertical_cells hdim hi).1
    rw [hcell _ _ (by omega), at_placeFormats_vertical hdim s.shape_board _ _ _ hi, formatBit]
  · have hrow := (formatHorizontal_cells hdim hi).2
    rw [hcell _ _ (by omega), at_placeFormats_horizontal hdim s.shape_board _ _ _ hi, formatBit]
  · rw [hcell _ _ (by omega), at_placeFormats_darkModule hdim s.shape_board]
  · rw [hcell _ _ (by omega), at_placeFormats_other hdim s.shape_board _ _ _ hvertical hhorizontal, s.at_board hr hc]

/-- Settles O34: fifteen bits determine the word, so a strip read back is the format word itself. -/
theorem formatStripsGiveBackLevelAndMask : Obligations.FormatStripsGiveBackLevelAndMask := by
  unfold Obligations.FormatStripsGiveBackLevelAndMask
  intro s t hv htest ht f hf hstrip
  obtain ⟨t', ht', -, -, hcells, -⟩ := placeFormatWritesBothStrips s hv
  cases ht.symm.trans ht'
  obtain ⟨hlt, hfields⟩ := formatWord_fields _ s.cfg.ecl.isLt _ s.cfg.mask.isLt
  have hword : f = formatWord s.cfg.ecl.toNat s.cfg.mask.toNat := eq_of_testBit_below hf hlt fun i hi => by
    obtain ⟨hvertical, hhorizontal⟩ := hcells i hi
    rcases hstrip with hstrip | hstrip
    · rw [hstrip i hi, hvertical, cellOfBool_eq_dark_iff, htest, Bool.not_false, Bool.true_and]
    · rw [hstrip i hi, hhorizontal, cellOfBool_eq_dark_iff, htest, Bool.not_false, Bool.true_and]
  rw [hword]
  exact hfields

/-- Settles O35: the 36 version cells are different cells, and below version 7 none is written. -/
theorem placeVersionWritesBothBlocks : Obligations.PlaceVersionWritesBothBlocks := by
  unfold Obligations.PlaceVersionWritesBothBlocks
  intro s hv
  have hdim := s.dim_eq hv
  have hdim177 := s.dim_le
  have hshape : s.board.shape (dimOf s.version) := hdim ▸ s.shape_board
  obtain ⟨t, ht, hsucc, hframe, -, hcell⟩ :=
    s.withGrid_spec .placeVersion (placeVersions s.version s.cfg.test) hv (shape_placeVersions s.shape_board)
  refine ⟨t, ht, hsucc, hframe, fun h7 r c hr hc => ?_, fun h7 => ⟨fun i hi => ⟨?_, ?_⟩, fun r c hr hc htr hbl => ?_⟩⟩
  · rw [hcell r c (by omega), placeVersions, if_pos h7, s.at_board hr hc]
  · rw [hcell _ _ (by omega), hdim, at_placeVersions_topRight h7 hshape _ hi, versionBit]
  · rw [hcell _ _ (by omega), hdim, at_placeVersions_bottomLeft h7 hshape _ hi, versionBit]
  · rw [hcell _ _ (by omega), at_placeVersions_other h7 hshape _ (hdim ▸ htr) (hdim ▸ hbl), s.at_board hr hc]

/-- Settles O33, by evaluating the two BCH codes on each printed entry. -/
theorem bchWordsAreThePrintedOnes : Obligations.BchWordsAreThePrintedOnes := by
  unfold Obligations.BchWordsAreThePrintedOnes
  decide

end Sys2Proof.Machine
end

section
/-! SUPPORT. The scan (44_mapper.md R262): which columns are the right ones of a pair, and the cell at each position. -/

namespace Sys2Proof.Machine

/-! ### The right columns of the pairs -/

@[simp] theorem pairColumns_zero (fuel : Nat) : pairColumns fuel 0 = [] := by cases fuel <;> rfl

theorem pairColumns_six (fuel : Nat) : pairColumns (fuel + 3) 6 = [5, 3, 1] := by simp [pairColumns]

/-- Right of column 6 the right columns are the even ones. -/
theorem pairColumns_even (fuel n : Nat) :
    pairColumns (n + fuel) (2 * n + 6) = (List.range n).map (fun i => 2 * (n - i) + 6) ++ pairColumns fuel 6 := by
  induction n with
  | zero => simp
  | succ n ih =>
    rw [Nat.succ_add, pairColumns, if_neg (by omega)]
    simp only [if_neg (show 2 * (n + 1) + 6 ≠ 6 by omega), show 2 * (n + 1) + 6 - 2 = 2 * n + 6 by omega, ih,
      List.range_succ_eq_map, List.map_cons, List.map_map, Function.comp_def, Nat.succ_eq_add_one, Nat.add_sub_add_right,
      Nat.sub_zero, List.cons_append]

/-- The right column of pair `i` in an area of version `v`: even to the right of column 6, odd to its left. -/
def rightColumn (v i : Nat) : Nat := if i < 2 * v + 5 then 4 * v + 16 - 2 * i else 4 * v + 15 - 2 * i

theorem pairColumns_dim (v : Nat) : pairColumns (dimOf v) (dimOf v - 1) = (List.range (2 * v + 8)).map (rightColumn v) := by
  have hfuel : dimOf v = (2 * v + 5) + ((2 * v + 9) + 3) := by unfold dimOf; omega
  have hcol : dimOf v - 1 = 2 * (2 * v + 5) + 6 := by unfold dimOf; omega
  rw [hcol, hfuel, pairColumns_even, pairColumns_six, List.range_add (n := 2 * v + 5) (m := 3), List.map_append]
  congr 1
  · refine List.map_congr_left fun i hi => ?_
    have := List.mem_range.1 hi
    unfold rightColumn
    rw [if_pos this]
    omega
  · simp [rightColumn, List.range_succ]
    omega

/-- Right columns of different pairs are at least two apart, the earlier one further to the right. -/
theorem rightColumn_lt {v i j : Nat} (hij : i < j) (hj : j < 2 * v + 8) : rightColumn v j + 2 ≤ rightColumn v i := by
  unfold rightColumn
  split_ifs <;> omega

theorem rightColumn_pos {v i : Nat} (hi : i < 2 * v + 8) : 1 ≤ rightColumn v i := by
  unfold rightColumn
  split_ifs <;> omega

/-! ### Lists made of parts of one length -/

/-- Element `j` of part `i` of a list made of parts of length `n`. -/
theorem getElem?_flatMap_parts {α β : Type} {f : α → List β} {n : Nat} (hf : ∀ a, (f a).length = n) {j : Nat} (hj : j < n) :
    ∀ (l : List α) (i : Nat), (l.flatMap f)[n * i + j]? = l[i]?.bind (fun a => (f a)[j]?) := by
  intro l
  induction l with
  | nil => simp
  | cons a t ih =>
    intro i
    rw [List.flatMap_cons]
    cases i with
    | zero => rw [List.getElem?_append_left (by rw [hf]; omega)]; simp
    | succ i =>
      have hlt : n ≤ n * (i + 1) + j := (Nat.le_mul_of_pos_right n i.succ_pos).trans (Nat.le_add_right _ _)
      rw [List.getElem?_append_right (by rwa [hf]), hf, show n * (i + 1) + j - n = n * i + j by rw [Nat.mul_succ]; omega, ih]
      simp

/-! ### The cells of the pairs -/

theorem mem_pairRows {dim r : Nat} {up : Bool} : r ∈ pairRows dim up ↔ r < dim := by cases up <;> simp [pairRows]

theorem nodup_pairRows (dim : Nat) (up : Bool) : (pairRows dim up).Nodup := by
  cases up
  · exact List.nodup_range
  · exact List.nodup_reverse.2 List.nodup_range

/-- Upward the rows come from the bottom edge, downward from the top edge. -/
theorem getElem?_pairRows {dim r : Nat} (hr : r < dim) (up : Bool) :
    (pairRows dim up)[if up then dim - 1 - r else r]? = some r := by
  cases up
  · simp [pairRows, hr]
  · have hlt : dim - 1 - r < dim := by omega
    have hback : dim - 1 - (dim - 1 - r) = r := by omega
    simp [pairRows, hlt, hback]

/-- The cells of the pair with right column `col`, the right cell of a row first (R262). -/
def pairPath (dim : Nat) (up : Bool) (col : Nat) : List (Nat × Nat) :=
  (pairRows dim up).flatMap (fun r => [(r, col), (r, col - 1)])

theorem pairCells_cons (dim : Nat) (up : Bool) (col : Nat) (t : List Nat) :
    pairCells dim up (col :: t) = pairPath dim up col ++ pairCells dim (!up) t := rfl

theorem length_pairPath (dim : Nat) (up : Bool) (col : Nat) : (pairPath dim up col).length = 2 * dim := by
  cases up <;> simp [pairPath, pairRows, Nat.mul_comm]

theorem mem_pairPath {dim : Nat} {up : Bool} {col r c : Nat} :
    (r, c) ∈ pairPath dim up col ↔ r < dim ∧ (c = col ∨ c = col - 1) := by
  simp only [pairPath, List.mem_flatMap, mem_pairRows, List.mem_cons, Prod.mk.injEq, List.not_mem_nil, or_false]
  constructor
  · rintro ⟨r', hr', ⟨rfl, h⟩ | ⟨rfl, h⟩⟩
    · exact ⟨hr', .inl h⟩
    · exact ⟨hr', .inr h⟩
  · rintro ⟨hr, h | h⟩
    · exact ⟨r, hr, .inl ⟨rfl, h⟩⟩
    · exact ⟨r, hr, .inr ⟨rfl, h⟩⟩

theorem nodup_pairPath {dim : Nat} {up : Bool} {col : Nat} (hcol : 1 ≤ col) : (pairPath dim up col).Nodup := by
  refine List.nodup_flatMap.2 ⟨fun r _ => ?_, (nodup_pairRows dim up).imp fun hne => ?_⟩
  · simp only [List.nodup_cons, List.mem_singleton, Prod.mk.injEq, List.not_mem_nil, not_false_eq_true, List.nodup_nil, and_true]
    omega
  · simp [Function.onFun, Ne.symm hne]

/-- Row `r` stands where `pairRows` has it, the right cell before the left one. -/
theorem getElem?_pairPath {dim r j : Nat} (hr : r < dim) (hj : j < 2) (up : Bool) (col : Nat) :
    (pairPath dim up col)[2 * (if up then dim - 1 - r else r) + j]? = some (r, col - j) := by
  rw [pairPath, getElem?_flatMap_parts (n := 2) (fun _ => rfl) hj, getElem?_pairRows hr]
  obtain rfl | rfl : j = 0 ∨ j = 1 := by omega
  · rfl
  · rfl

theorem mem_pairCells {dim r c : Nat} : ∀ {cols : List Nat} {up : Bool},
    (r, c) ∈ pairCells dim up cols ↔ r < dim ∧ ∃ col ∈ cols, c = col ∨ c = col - 1 := by
  intro cols
  induction cols with
  | nil => simp [pairCells]
  | cons col t ih =>
    intro up
    rw [pairCells_cons, List.mem_append, mem_pairPath, ih, ← and_or_left]
    simp

/-- Pairs of columns that are apart share no cell, so no cell comes twice. -/
theorem nodup_pairCells {dim : Nat} : ∀ {cols : List Nat} {up : Bool}, cols.Pairwise (fun a b => b + 2 ≤ a) →
    (∀ col ∈ cols, 1 ≤ col) → (pairCells dim up cols).Nodup := by
  intro cols
  induction cols with
  | nil => exact fun _ _ => List.nodup_nil
  | cons col t ih =>
    intro up hapart hpos
    obtain ⟨hcol, ht⟩ := List.pairwise_cons.1 hapart
    obtain ⟨hpos, htpos⟩ := List.forall_mem_cons.1 hpos
    refine List.nodup_append'.2 ⟨nodup_pairPath hpos, ih ht htpos, ?_⟩
    rintro ⟨r, c⟩ hpair hrest
    obtain ⟨-, hc⟩ := mem_pairPath.1 hpair
    obtain ⟨-, col', hcol', hc'⟩ := mem_pairCells.1 hrest
    have := hcol col' hcol'
    omega

/-- Pair `i` has its 2 * dim cells after those of the pairs before it, and goes upward when `i` has the parity of an upward
beginning (R262). -/
theorem getElem?_pairCells {dim r j : Nat} (hr : r < dim) (hj : j < 2) : ∀ {cols : List Nat} {up : Bool} {i col : Nat},
    cols[i]? = some col →
      (pairCells dim up cols)[i * (2 * dim) + 2 * (if up = (i % 2 == 0) then dim - 1 - r else r) + j]? = some (r, col - j) := by
  intro cols
  induction cols with
  | nil => simp
  | cons a t ih =>
    intro up i col hi
    rw [pairCells_cons]
    cases i with
    | zero =>
      cases hi
      have hlt : 2 * (if up = true then dim - 1 - r else r) + j < 2 * dim := by split <;> omega
      simp only [Nat.zero_mul, Nat.zero_add, Nat.zero_mod, beq_self_eq_true]
      rw [List.getElem?_append_left (by rwa [length_pairPath]), getElem?_pairPath hr hj]
    | succ i =>
      have hdir : (up = ((i + 1) % 2 == 0)) ↔ ((!up) = (i % 2 == 0)) := by
        rcases Nat.mod_two_eq_zero_or_one i with h | h <;> cases up <;> simp [h, Nat.add_mod]
      rw [List.getElem?_append_right (by rw [length_pairPath, Nat.add_one_mul i (2 * dim)]; omega), length_pairPath,
        Nat.add_one_mul i (2 * dim)]
      simp only [hdir]
      rw [← ih (up := !up) (i := i) (by simpa using hi)]
      congr 1
      omega

/-! ### The scan -/

theorem scanOrder_eq (v : Nat) : scanOrder (dimOf v) = pairCells (dimOf v) true ((List.range (2 * v + 8)).map (rightColumn v)) := by
  rw [scanOrder, pairColumns_dim]

/-- The number of columns to the right of column `c`, column 6 left out (R262). -/
def scanColumn (dim c : Nat) : Nat := if 6 < c then dim - 1 - c else dim - 2 - c

/-- Column `c` is the right column of its pair, or the one left of it. -/
theorem rightColumn_scanColumn {v c : Nat} (hc : c < dimOf v) (h6 : c ≠ 6) :
    scanColumn (dimOf v) c / 2 < 2 * v + 8 ∧
      rightColumn v (scanColumn (dimOf v) c / 2) - scanColumn (dimOf v) c % 2 = c := by
  unfold scanColumn rightColumn dimOf at *
  split_ifs <;> omega

theorem nodup_scanOrder (v : Nat) : (scanOrder (dimOf v)).Nodup := by
  rw [scanOrder_eq]
  refine nodup_pairCells (List.pairwise_map.2 ?_) fun col hcol => ?_
  · exact List.pairwise_lt_range.imp_of_mem fun _ hj hij => rightColumn_lt hij (List.mem_range.1 hj)
  · obtain ⟨i, hi, rfl⟩ := List.mem_map.1 hcol
    exact rightColumn_pos (List.mem_range.1 hi)

theorem mem_scanOrder {v r c : Nat} : (r, c) ∈ scanOrder (dimOf v) ↔ r < dimOf v ∧ c < dimOf v ∧ c ≠ 6 := by
  rw [scanOrder_eq, mem_pairCells]
  refine and_congr_right fun _ => ⟨?_, fun ⟨hc, h6⟩ => ?_⟩
  · rintro ⟨col, hcol, hc⟩
    obtain ⟨i, hi, rfl⟩ := List.mem_map.1 hcol
    have hi' := List.mem_range.1 hi
    unfold rightColumn dimOf at *
    split_ifs at hc <;> omega
  · obtain ⟨hi, hcol⟩ := rightColumn_scanColumn hc h6
    exact ⟨_, List.mem_map.2 ⟨_, List.mem_range.2 hi, rfl⟩, by omega⟩

theorem getElem?_scanOrder {v r c : Nat} (hr : r < dimOf v) (hc : c < dimOf v) (h6 : c ≠ 6) :
    (scanOrder (dimOf v))[scanColumn (dimOf v) c / 2 * (2 * dimOf v)
      + 2 * (if scanColumn (dimOf v) c / 2 % 2 = 0 then dimOf v - 1 - r else r) + scanColumn (dimOf v) c % 2]? = some (r, c) := by
  obtain ⟨hi, hcol⟩ := rightColumn_scanColumn hc h6
  have hget : ((List.range (2 * v + 8)).map (rightColumn v))[scanColumn (dimOf v) c / 2]?
      = some (rightColumn v (scanColumn (dimOf v) c / 2)) := by
    rw [List.getElem?_map, List.getElem?_range hi, Option.map_some]
  have hcell := getElem?_pairCells hr (Nat.mod_lt (scanColumn (dimOf v) c) (by omega)) (up := true) hget
  rw [hcol] at hcell
  rw [scanOrder_eq]
  simpa [eq_comm (a := true)] using hcell

/-- Settles O37: the right columns of the pairs are known, and each pair has its cells at the positions its direction gives. -/
theorem scanNamesEveryCellOnceInOrder : Obligations.ScanNamesEveryCellOnceInOrder := by
  unfold Obligations.ScanNamesEveryCellOnceInOrder
  exact fun v _ _ => ⟨nodup_scanOrder v, fun _ _ => mem_scanOrder, fun _ _ hr hc h6 => getElem?_scanOrder hr hc h6⟩

end Sys2Proof.Machine
end

section
/-! SUPPORT. MAP_DATA (44_mapper.md R261 to R265): the bit each visited cell takes, the cells that stay, and the capacity check. -/

namespace Sys2Proof.Machine

/-! ### The bits and the paints -/

/-- Bit `n` of the codewords is bit 7 - n mod 8 of codeword n div 8, and 0 after the last (R263). -/
theorem getD_codewordBits (cws : List Byte) (n : Nat) : (cws.flatMap codewordBits).getD n false =
    if n / 8 < cws.length then (cws.getD (n / 8) 0).getLsbD (7 - n % 8) else false := by
  have hmod : n % 8 < 8 := Nat.mod_lt _ (by omega)
  have hpart : (cws.flatMap codewordBits)[n]? = cws[n / 8]?.bind (fun b => (codewordBits b)[n % 8]?) := by
    rw [← getElem?_flatMap_parts (n := 8) (fun _ => by simp [codewordBits]) hmod cws (n / 8), Nat.div_add_mod]
  rw [List.getD_eq_getElem?_getD, hpart]
  split
  next h => simp [codewordBits, hmod, h]
  next h => simp [h]

theorem getElem?_mappedPaints (mask : Nat) : ∀ (ps : List (Nat × Nat)) (bs : List Bool) (n : Nat),
    (mappedPaints mask ps bs)[n]? = ps[n]?.map (fun p => (p, cellOfBool (bs.getD n false ^^ maskBit mask p.1 p.2))) := by
  intro ps
  induction ps with
  | nil => simp [mappedPaints]
  | cons p t ih => intro bs n; cases bs <;> cases n <;> simp [mappedPaints, ih]

theorem map_fst_mappedPaints (mask : Nat) (ps : List (Nat × Nat)) (bs : List Bool) : (mappedPaints mask ps bs).map Prod.fst = ps :=
  List.ext_getElem? fun n => by simp [getElem?_mappedPaints, Function.comp_def]

/-! ### The visited cells -/

theorem mem_visitedCells {v r c : Nat} {g : Board} :
    (r, c) ∈ visitedCells (dimOf v) g ↔ (r < dimOf v ∧ c < dimOf v ∧ c ≠ 6) ∧ g.at r c = .unset := by
  simp only [visitedCells, List.mem_filter, mem_scanOrder, decide_eq_true_eq]

theorem nodup_visitedCells (v : Nat) (g : Board) : (visitedCells (dimOf v) g).Nodup := (nodup_scanOrder v).filter _

theorem fst_mem_of_mem_mappedPaints {mask : Nat} {ps : List (Nat × Nat)} {bs : List Bool} {p : Paint}
    (h : p ∈ mappedPaints mask ps bs) : p.1 ∈ ps := map_fst_mappedPaints mask ps bs ▸ List.mem_map_of_mem h

theorem paintsInside_mapped (v mask : Nat) (g : Board) (bs : List Bool) :
    paintsInside (dimOf v) (mappedPaints mask (visitedCells (dimOf v) g) bs) := fun _ hp =>
  have hin := (mem_visitedCells.1 (fst_mem_of_mem_mappedPaints hp)).1
  ⟨hin.1, hin.2.1⟩

/-! ### The mapped area -/

section
variable {v : Nat} {g : Board} (h : g.shape (dimOf v)) (mask : Nat) (cws : List Byte)
include h

/-- The n-th visited cell (R263). -/
theorem at_mapCodewords_visited {n : Nat} {p : Nat × Nat} (hp : (visitedCells (dimOf v) g)[n]? = some p) :
    (mapCodewords (dimOf v) mask cws g).at p.1 p.2 = cellOfBool
      ((if n / 8 < cws.length then (cws.getD (n / 8) 0).getLsbD (7 - n % 8) else false) ^^ maskBit mask p.1 p.2) := by
  refine Board.at_paint_of_nodup h (paintsInside_mapped v mask g _) ?_ (List.mem_of_getElem? (i := n) ?_)
  · rw [map_fst_mappedPaints]
    exact nodup_visitedCells v g
  · rw [getElem?_mappedPaints, hp, Option.map_some, getD_codewordBits]

/-- Set cells and the cells of column 6 are not visited (R265). -/
theorem at_mapCodewords_other {r c : Nat} (hkeep : g.at r c ≠ .unset ∨ c = 6) :
    (mapCodewords (dimOf v) mask cws g).at r c = g.at r c := by
  refine Board.at_paint_other _ h (paintsInside_mapped v mask g _) fun p hp hcell => ?_
  obtain ⟨⟨-, -, h6⟩, hunset⟩ := mem_visitedCells.1 (hcell ▸ fst_mem_of_mem_mappedPaints hp)
  exact hkeep.elim (fun hset => hset hunset) h6

/-- No cell outside column 6 stays unset (R265). -/
theorem at_mapCodewords_ne_unset {r c : Nat} (hr : r < dimOf v) (hc : c < dimOf v) (h6 : c ≠ 6) :
    (mapCodewords (dimOf v) mask cws g).at r c ≠ .unset := by
  by_cases hset : g.at r c = .unset
  · obtain ⟨n, hn⟩ := List.getElem?_of_mem (mem_visitedCells.2 ⟨⟨hr, hc, h6⟩, hset⟩)
    rw [at_mapCodewords_visited h mask cws hn]
    exact cellOfBool_ne_unset _
  · rwa [at_mapCodewords_other h mask cws (.inl hset)]

end

/-! ### The command -/

/-- With codewords that fit MAP_DATA is a grid command like the placing ones (R264, R265). -/
theorem exec_mapData_of_fits {s : State} (hfit : 8 * s.cwLen.toNat ≤ s.board.unsetCount) :
    exec .mapData s = s.withGrid .mapData (mapCodewords s.dim s.cfg.mask.toNat s.codewords) := by
  simp only [exec, execMapData, State.withGrid, if_neg (Nat.not_lt.2 hfit)]

theorem exec_mapData_overflow {s : State} (hv : s.gridVer ≠ 0) (hover : s.board.unsetCount < 8 * s.cwLen.toNat) :
    exec .mapData s = s.failUnspecified .mapData (.capacityOverflow s.cwLen.toNat) := by
  simp only [exec, execMapData, if_neg hv, if_pos hover]

theorem CmdError.info_capacityOverflow (n : BitVec 13) : (CmdError.capacityOverflow n.toNat).info = n.setWidth 32 := by
  rw [CmdError.info, BitVec.ofNat_toNat]

/-- An area has no more unset cells than cells. -/
theorem Board.unsetCount_le {dim : Nat} {g : Board} (h : g.shape dim) : g.unsetCount ≤ dim * dim := by
  have hrow : ∀ n ∈ g.map (fun row => row.count .unset), n ≤ dim := fun n hn => by
    obtain ⟨row, hrow, rfl⟩ := List.mem_map.1 hn
    exact h.2 row hrow ▸ List.count_le_length
  have hsum := List.sum_le_card_nsmul _ dim hrow
  rwa [List.length_map, h.1, smul_eq_mul] at hsum

/-- Settles O38: the scan visits every unset cell outside column 6 once, so each holds the bit of its position. -/
theorem mapDataPlacesTheBits : Obligations.MapDataPlacesTheBits := by
  unfold Obligations.MapDataPlacesTheBits
  intro s hv hfit
  have hdim := s.dim_eq hv
  have hdim177 := s.dim_le
  have hshape : s.board.shape (dimOf s.version) := hdim ▸ s.shape_board
  obtain ⟨t, ht, hsucc, hframe, -, hcell⟩ :=
    s.withGrid_spec .mapData (mapCodewords s.dim s.cfg.mask.toNat s.codewords) hv (shape_mapCodewords s.shape_board)
  refine ⟨t, (exec_mapData_of_fits hfit).trans ht, hsucc, hframe, fun n p hp => ?_, fun r c hr hc hkeep => ?_,
    fun r c hr hc h6 => ?_⟩
  · rw [hdim] at hp hcell
    have hin := (mem_visitedCells.1 (List.mem_of_getElem? hp)).1
    rw [hcell _ _ (by omega), at_mapCodewords_visited hshape _ _ hp, State.codewords, State.length_elems]
    split
    next hlt => rw [State.getD_elems _ _ _ _ _ hlt]
    next => rfl
  · have hkeep' : s.board.at r c ≠ .unset ∨ c = 6 := by rwa [s.at_board hr hc]
    rw [hcell r c (by omega), hdim, at_mapCodewords_other hshape _ _ hkeep', s.at_board hr hc]
  · rw [hcell r c (by omega), hdim]
    exact at_mapCodewords_ne_unset hshape _ _ (hdim ▸ hr) (hdim ▸ hc) h6

/-- Settles O39: the check fails before any write, and the 31329 cells of the largest area hold fewer than 4097 codewords. -/
theorem mapDataReportsOverflow : Obligations.MapDataReportsOverflow := by
  unfold Obligations.MapDataReportsOverflow
  refine fun s hv => ⟨fun hover => ?_, fun hlen => ?_⟩
  · exact CmdError.info_capacityOverflow s.cwLen ▸ failsWith_of_failUnspecified (exec_mapData_overflow hv hover)
  · have hcells : s.dim * s.dim ≤ 177 * 177 := Nat.mul_le_mul s.dim_le s.dim_le
    have hunset := Board.unsetCount_le s.shape_board
    omega

end Sys2Proof.Machine
end

section
/-! SUPPORT. The penalty (44_mapper.md R270 to R275): it reads the cells of the area alone, and it fits a 32-bit word. -/

namespace Sys2Proof.Machine

/-! ### Sums over an area -/

theorem sumOver_congr {n m : Nat} {f f' : Nat → Nat → Nat} (h : ∀ r c, r < n → c < m → f r c = f' r c) :
    sumOver n m f = sumOver n m f' := by
  refine congrArg List.sum (List.map_congr_left fun r hr => congrArg List.sum (List.map_congr_left fun c hc => ?_))
  exact h r c (List.mem_range.1 hr) (List.mem_range.1 hc)

theorem sumOver_le {b : Nat} {f : Nat → Nat → Nat} (h : ∀ r c, f r c ≤ b) (n m : Nat) : sumOver n m f ≤ n * (m * b) := by
  have hsum : ∀ (k x : Nat) (φ : Nat → Nat), (∀ i, φ i ≤ x) → ((List.range k).map φ).sum ≤ k * x := fun k x φ hφ => by
    have := List.sum_le_card_nsmul ((List.range k).map φ) x (List.forall_mem_map.2 fun i _ => hφ i)
    rwa [List.length_map, List.length_range, smul_eq_mul] at this
  exact hsum n _ _ fun r => hsum m b _ (h r)

/-! ### The penalty depends on the colours of the area alone -/

section
variable {dim : Nat} {dark dark' : Colours} (h : ∀ r c, r < dim → c < dim → dark r c = dark' r c)
include h

theorem sameNeighbours_congr {r c : Nat} (hr : r < dim) (hc : c < dim) :
    sameNeighbours dim dark r c = sameNeighbours dim dark' r c := by
  refine List.countP_congr fun d _ => ?_
  by_cases hin : 1 ≤ r + d.1 ∧ r + d.1 ≤ dim ∧ 1 ≤ c + d.2 ∧ c + d.2 ≤ dim
  · rw [h r c hr hc, h (r + d.1 - 1) (c + d.2 - 1) (by omega) (by omega)]
  · simp only [hin, decide_false, Bool.false_and]

theorem penalty1_congr : penalty1 dim dark = penalty1 dim dark' :=
  sumOver_congr fun r c hr hc => by simp only [sameNeighbours_congr h hr hc]

theorem penalty2_congr : penalty2 dim dark = penalty2 dim dark' :=
  sumOver_congr fun r c hr hc => by
    rw [h r c (by omega) (by omega), h r (c + 1) (by omega) (by omega), h (r + 1) c (by omega) (by omega),
      h (r + 1) (c + 1) (by omega) (by omega)]

theorem penalty3_congr : penalty3 dim dark = penalty3 dim dark' := by
  have hhorizontal : ∀ r c, r < dim → c < dim - 6 →
      (List.range 7).map (fun k => dark r (c + k)) = (List.range 7).map (fun k => dark' r (c + k)) := fun r c hr hc =>
    List.map_congr_left fun k hk => h r (c + k) hr (by have := List.mem_range.1 hk; omega)
  have hvertical : ∀ r c, r < dim - 6 → c < dim →
      (List.range 7).map (fun k => dark (r + k) c) = (List.range 7).map (fun k => dark' (r + k) c) := fun r c hr hc =>
    List.map_congr_left fun k hk => h (r + k) c (by have := List.mem_range.1 hk; omega) hc
  exact congrArg₂ (· + ·) (sumOver_congr fun r c hr hc => by rw [hhorizontal r c hr hc])
    (sumOver_congr fun r c hr hc => by rw [hvertical r c hr hc])

theorem darkCount_congr : darkCount dim dark = darkCount dim dark' := sumOver_congr fun r c hr hc => by rw [h r c hr hc]

theorem penalty4_congr : penalty4 dim dark = penalty4 dim dark' := by simp only [penalty4, darkCount_congr h]

end

/-- The colour the penalty reads is the colour of the cell. -/
theorem colourAt_darkRows (g : Board) (r c : Nat) : colourAt g.darkRows r c = decide (g.at r c = .dark) := by
  simp only [colourAt, Board.darkRows, Board.at, Array.getD_eq_getD_getElem?, List.getElem?_toArray, List.getElem?_map,
    List.getD_eq_getElem?_getD]
  rcases g[r]? with _ | row
  · simp
  · rcases h : row[c]? with _ | v <;> simp [h]

/-- The penalty of an area through any function that gives the colours of its cells. -/
theorem penaltyOf_eq {dim : Nat} {g : Board} {dark : Colours}
    (h : ∀ r c, r < dim → c < dim → decide (g.at r c = .dark) = dark r c) : penaltyOf dim g =
      { p1 := penalty1 dim dark, p2 := penalty2 dim dark, p3 := penalty3 dim dark, p4 := penalty4 dim dark } := by
  have hread : ∀ r c, r < dim → c < dim → colourAt g.darkRows r c = dark r c := fun r c hr hc =>
    (colourAt_darkRows g r c).trans (h r c hr hc)
  rw [penaltyOf, penalty1_congr hread, penalty2_congr hread, penalty3_congr hread, penalty4_congr hread]

/-! ### The bounds of R275 -/

section
variable (dim : Nat) (dark : Colours)

/-- A cell has at most eight neighbours of its colour and adds at most 6. -/
theorem penalty1_le : penalty1 dim dark ≤ dim * (dim * 6) := by
  refine sumOver_le (fun r c => ?_) dim dim
  have : sameNeighbours dim dark r c ≤ 8 := List.countP_le_length
  dsimp only
  split <;> omega

theorem penalty2_le : penalty2 dim dark ≤ (dim - 1) * ((dim - 1) * 3) :=
  sumOver_le (fun r c => by split <;> omega) _ _

theorem penalty3_le : penalty3 dim dark ≤ dim * ((dim - 6) * 40) + (dim - 6) * (dim * 40) :=
  Nat.add_le_add (sumOver_le (fun r c => by split <;> omega) _ _) (sumOver_le (fun r c => by split <;> omega) _ _)

/-- The dark cells differ from half of the cells by at most half of them. -/
theorem penalty4_le : penalty4 dim dark ≤ 100 := by
  have hdark : darkCount dim dark ≤ dim * (dim * 1) := sumOver_le (fun r c => by split <;> omega) _ _
  rw [Nat.mul_one] at hdark
  have hratio : (100 * (darkCount dim dark : Int) - 50 * (↑(dim * dim) : Int)).natAbs / (5 * (dim * dim)) ≤ 10 :=
    Nat.div_le_of_le_mul (by omega)
  exact Nat.mul_le_mul_right 10 hratio

end

/-- In the largest area the sum of the four components fits RES0 (R275). -/
theorem penalty_sum_lt {dim : Nat} (hdim : dim ≤ 177) (dark : Colours) :
    penalty1 dim dark + penalty2 dim dark + penalty3 dim dark + penalty4 dim dark < 2 ^ 32 := by
  have hsub : ∀ k, dim - k ≤ 177 := fun k => (Nat.sub_le dim k).trans hdim
  have h1 := (penalty1_le dim dark).trans (Nat.mul_le_mul hdim (Nat.mul_le_mul_right 6 hdim))
  have h2 := (penalty2_le dim dark).trans (Nat.mul_le_mul (hsub 1) (Nat.mul_le_mul_right 3 (hsub 1)))
  have h3 := (penalty3_le dim dark).trans (Nat.add_le_add (Nat.mul_le_mul hdim (Nat.mul_le_mul_right 40 (hsub 6)))
    (Nat.mul_le_mul (hsub 6) (Nat.mul_le_mul_right 40 hdim)))
  have h4 := penalty4_le dim dark
  omega

theorem total_penaltyOf_lt {dim : Nat} (hdim : dim ≤ 177) (g : Board) : (penaltyOf dim g).total < 2 ^ 32 := by
  rw [penaltyOf_eq fun _ _ _ _ => rfl]
  exact penalty_sum_lt hdim _

/-! ### The command -/

/-- SCORE on a complete grid stores the penalty (R275). -/
theorem exec_score_complete {s : State} (hv : s.gridVer ≠ 0) (hfull : s.board.unsetCount = 0) :
    exec .score s = .next { s with
      seq := .idle, done := true, res0 := BitVec.ofNat 32 (penaltyOf s.dim s.board).total
      res1 := BitVec.ofNat 32 (penaltyOf s.dim s.board).p1, res2 := BitVec.ofNat 32 (penaltyOf s.dim s.board).p2
      res3 := BitVec.ofNat 32 (penaltyOf s.dim s.board).p3, res4 := BitVec.ofNat 32 (penaltyOf s.dim s.board).p4 } := by
  simp only [exec, execScore, if_neg hv, hfull, gt_iff_lt, Nat.lt_irrefl, if_false, State.complete]

theorem exec_score_no_grid {s : State} (hv : s.gridVer = 0) : exec .score s = s.failUnspecified .score (.rangeVersion 0) :=
  if_pos hv

theorem exec_score_incomplete {s : State} (hv : s.gridVer ≠ 0) (hu : s.board.unsetCount ≠ 0) :
    exec .score s = s.failUnspecified .score (.incompleteGrid s.board.unsetCount) := by
  simp only [exec, execScore, if_neg hv, if_pos (Nat.pos_of_ne_zero hu)]

/-- Settles O40: the penalty reads the cells of the area, and no component nor the sum reaches 2^32. -/
theorem scoreWritesThePenalty : Obligations.ScoreWritesThePenalty := by
  unfold Obligations.ScoreWritesThePenalty
  intro s hv hfull dark
  have ht := exec_score_complete hv hfull
  have hcells : ∀ r c, r < s.dim → c < s.dim → decide (s.board.at r c = .dark) = dark r c := fun r c hr hc => by
    rw [s.at_board hr hc]
  rw [penaltyOf_eq hcells] at ht
  have hsum := penalty_sum_lt s.dim_le dark
  refine ⟨_, ht, ⟨rfl, rfl, rfl, rfl, rfl⟩, exec_writesRow .score s _ ht, ?_⟩
  have hfits : ∀ {n}, n ≤ penalty1 s.dim dark + penalty2 s.dim dark + penalty3 s.dim dark + penalty4 s.dim dark →
      (BitVec.ofNat 32 n).toNat = n := fun hn => (BitVec.toNat_ofNat _ _).trans (Nat.mod_eq_of_lt (hn.trans_lt hsum))
  simp only [Penalty.total]
  rw [hfits le_rfl, hfits (by omega), hfits (by omega), hfits (by omega), hfits (by omega)]
  exact ⟨rfl, rfl, rfl, rfl, rfl⟩

/-- Settles O41: each clause is one of the two checks. -/
theorem scoreNeedsACompleteGrid : Obligations.ScoreNeedsACompleteGrid := by
  unfold Obligations.ScoreNeedsACompleteGrid
  exact fun s => ⟨fun hv => failsWith_of_failUnspecified (exec_score_no_grid hv),
    fun hv hu => failsWith_of_failUnspecified (exec_score_incomplete hv hu)⟩

end Sys2Proof.Machine
end

section
/-! SUPPORT. The structural patterns of a build (43_placer.md R243): which cells they leave unset does not depend on the level,
the mask and TEST, and column 6 is none of them. -/

namespace Sys2Proof.Machine

/-! ### Unset cells after a list of writes -/

/-- A list that only writes light and dark leaves unset the unset cells it does not name. -/
theorem Board.at_paint_eq_unset {dim r c : Nat} : ∀ {ps : List Paint} {g : Board}, g.shape dim → paintsInside dim ps →
    (∀ p ∈ ps, p.2 ≠ .unset) → ((g.paint ps).at r c = .unset ↔ g.at r c = .unset ∧ (r, c) ∉ ps.map Prod.fst) := by
  intro ps
  induction ps with
  | nil => intro g _ _ _; simp [Board.paint]
  | cons p t ih =>
    intro g h hin hset
    obtain ⟨hp, ht⟩ := List.forall_mem_cons.1 hin
    obtain ⟨hpset, htset⟩ := List.forall_mem_cons.1 hset
    rw [show g.paint (p :: t) = (g.put p.1.1 p.1.2 p.2).paint t from rfl, ih (Board.shape_put h _ _ _) ht htset,
      Board.at_put h hp.1 hp.2]
    by_cases hcell : r = p.1.1 ∧ c = p.1.2
    · simp [hcell, hpset]
    · have hmem : (r, c) ≠ p.1 := fun e => hcell ⟨congrArg Prod.fst e, congrArg Prod.snd e⟩
      simp [hcell, hmem]

/-- Two such lists that name the same cells leave the same cells unset. -/
theorem Board.at_paint_unset_congr {dim r c : Nat} {ps ps' : List Paint} {g g' : Board} (h : g.shape dim) (h' : g'.shape dim)
    (hin : paintsInside dim ps) (hin' : paintsInside dim ps') (hset : ∀ p ∈ ps, p.2 ≠ .unset) (hset' : ∀ p ∈ ps', p.2 ≠ .unset)
    (hcells : ps.map Prod.fst = ps'.map Prod.fst) (hg : g.at r c = .unset ↔ g'.at r c = .unset) :
    (g.paint ps).at r c = .unset ↔ (g'.paint ps').at r c = .unset := by
  rw [Board.at_paint_eq_unset h hin hset, Board.at_paint_eq_unset h' hin' hset', hcells, hg]

theorem formatPaints_set {dim e m : Nat} {test : Bool} : ∀ p ∈ formatPaints dim e m test, p.2 ≠ .unset := by
  intro p hp
  rcases mem_formatPaints.1 hp with ⟨i, -, rfl⟩ | ⟨i, -, rfl⟩ | rfl <;> exact cellOfBool_ne_unset _

theorem versionPaints_set {v : Nat} {test : Bool} : ∀ p ∈ versionPaints v test, p.2 ≠ .unset := by
  intro p hp
  rcases mem_versionPaints.1 hp with ⟨i, -, rfl⟩ | ⟨i, -, rfl⟩ <;> exact cellOfBool_ne_unset _

theorem map_fst_formatPaints (dim e m e' m' : Nat) (test test' : Bool) :
    (formatPaints dim e m test).map Prod.fst = (formatPaints dim e' m' test').map Prod.fst := by
  simp only [formatPaints, List.map_append, List.map_map, Function.comp_def, List.map_cons, List.map_nil]

theorem map_fst_versionPaints (v : Nat) (test test' : Bool) :
    (versionPaints v test).map Prod.fst = (versionPaints v test').map Prod.fst := by
  simp only [versionPaints, List.map_append, List.map_map, Function.comp_def]

/-! ### The structural area -/

/-- The patterns before the format information: they depend on the version alone (R281). -/
def timedBoard (v : Nat) : Board := placeTimings (dimOf v) (placeAlignments v (placeFinders (dimOf v) (Board.empty (dimOf v))))

theorem structuralBoard_eq (v e m : Nat) (test : Bool) :
    structuralBoard v e m test = placeVersions v test (placeFormats (dimOf v) e m test (timedBoard v)) := rfl

theorem shape_timedBoard (v : Nat) : (timedBoard v).shape (dimOf v) :=
  shape_placeTimings (shape_placeAlignments (shape_placeFinders (Board.shape_empty _)))

theorem le_dimOf {v : Nat} (hv : 1 ≤ v) : 21 ≤ dimOf v := by unfold dimOf; omega

section
variable {v : Nat} (hv : 1 ≤ v)
include hv

/-- Level, mask and TEST choose the values of the format and version cells, not which cells these are. -/
theorem at_structuralBoard_unset_congr (e m e' m' : Nat) (test test' : Bool) (r c : Nat) :
    (structuralBoard v e m test).at r c = .unset ↔ (structuralBoard v e' m' test').at r c = .unset := by
  have hshape := shape_timedBoard v
  have hformat : (placeFormats (dimOf v) e m test (timedBoard v)).at r c = .unset ↔
      (placeFormats (dimOf v) e' m' test' (timedBoard v)).at r c = .unset :=
    Board.at_paint_unset_congr hshape hshape (paintsInside_format (le_dimOf hv)) (paintsInside_format (le_dimOf hv))
      formatPaints_set formatPaints_set (map_fst_formatPaints _ _ _ _ _ _ _) Iff.rfl
  rw [structuralBoard_eq, structuralBoard_eq, placeVersions, placeVersions]
  split
  · exact hformat
  · exact Board.at_paint_unset_congr (shape_placeFormats hshape) (shape_placeFormats hshape) (paintsInside_version hv)
      (paintsInside_version hv) versionPaints_set versionPaints_set (map_fst_versionPaints _ _ _) hformat

/-- The number of cells left for the codewords is U(v) for every level, mask and TEST (R243). -/
theorem unsetCount_structuralBoard (e m : Nat) (test : Bool) : (structuralBoard v e m test).unsetCount = structuralUnset v :=
  Board.unsetCount_congr (shape_structuralBoard _ _ _ _) (shape_structuralBoard _ _ _ _)
    fun r c _ _ => at_structuralBoard_unset_congr hv _ _ _ _ _ _ r c

/-- The timing line sets what the finders leave of column 6, and no later pattern touches the column (R231). -/
theorem at_structuralBoard_column6 (e m : Nat) (test : Bool) {r : Nat} (hr : r < dimOf v) :
    (structuralBoard v e m test).at r 6 ≠ .unset := by
  have hdim := le_dimOf hv
  have hshape := shape_timedBoard v
  have htimed : (timedBoard v).at r 6 ≠ .unset := by
    rw [timedBoard, at_placeTimings hdim (shape_placeAlignments (shape_placeFinders (Board.shape_empty _))) hr (by omega)]
    simp only [and_true]
    split
    · split <;> decide
    next hset => simp [hset]
  have hformat : (placeFormats (dimOf v) e m test (timedBoard v)).at r 6 = (timedBoard v).at r 6 :=
    at_placeFormats_other hdim hshape e m test (by omega) (by omega)
  rw [structuralBoard_eq]
  rcases Nat.lt_or_ge v 7 with h7 | h7
  · rwa [placeVersions, if_pos h7, hformat]
  · have h45 : 45 ≤ dimOf v := by unfold dimOf; omega
    rwa [at_placeVersions_other h7 (shape_placeFormats hshape) test (by omega) (by omega), hformat]

/-- A built symbol has no unset cell (44_mapper.md R285). -/
theorem at_buildBoard_ne_unset (e m : Nat) (test : Bool) (cws : List Byte) {r c : Nat} (hr : r < dimOf v) (hc : c < dimOf v) :
    (buildBoard v e m test cws).at r c ≠ .unset := by
  have hshape := shape_structuralBoard v e m test
  by_cases h6 : c = 6
  · subst h6
    rw [buildBoard, at_mapCodewords_other hshape m cws (.inr rfl)]
    exact at_structuralBoard_column6 hv e m test hr
  · exact at_mapCodewords_ne_unset hshape m cws hr hc h6

theorem unsetCount_buildBoard (e m : Nat) (test : Bool) (cws : List Byte) : (buildBoard v e m test cws).unsetCount = 0 :=
  (Board.unsetCount_eq_zero (shape_buildBoard v e m test cws)).2 fun _ _ => at_buildBoard_ne_unset hv e m test cws

end

end Sys2Proof.Machine
end

section
/-! SUPPORT. BUILD (44_mapper.md R280, R281, R285): its checks, the area it stores, and the seven commands it equals. -/

namespace Sys2Proof.Machine

/-! ### The checks -/

theorem buildCheck_illegal {s : State} (h : ¬ legalVersion s) : s.buildCheck = .error (.rangeVersion s.cfg.version.toNat) := by
  rw [State.buildCheck, cfgVersion_illegal h]

theorem buildCheck_overflow {s : State} (h : legalVersion s) (hover : structuralUnset s.cfg.version.toNat < 8 * s.cwLen.toNat) :
    s.buildCheck = .error (.capacityOverflow s.cwLen.toNat) := by
  simp only [State.buildCheck, cfgVersion_legal h, if_pos hover]

theorem buildCheck_fits {s : State} (h : legalVersion s) (hfit : 8 * s.cwLen.toNat ≤ structuralUnset s.cfg.version.toNat) :
    s.buildCheck = .ok s.cfg.version := by
  simp only [State.buildCheck, cfgVersion_legal h, if_neg (Nat.not_lt.2 hfit)]

/-- What the checks find is the error of both build commands. -/
theorem builds_fail {s : State} {e : CmdError} (h : s.buildCheck = .error e) :
    failsWith .build s e.code e.info [.gridVer, .grid] ∧
      failsWith .autobuild s e.code e.info [.gridVer, .grid, .res0, .res1, .trialScore] :=
  ⟨failsWith_of_failUnspecified (by simp only [exec, execBuild, h]),
    failsWith_of_failUnspecified (by simp only [exec, execAutobuild, h])⟩

/-- Settles O44: the two errors are the two outcomes of the checks before any write. -/
theorem buildsReportTheFirstError : Obligations.BuildsReportTheFirstError := by
  unfold Obligations.BuildsReportTheFirstError
  refine fun s => ⟨fun hv => ?_, fun hv hover => ?_⟩
  · exact CmdError.info_rangeVersion s.cfg.version ▸ builds_fail (buildCheck_illegal hv)
  · exact CmdError.info_capacityOverflow s.cwLen ▸ builds_fail (buildCheck_overflow hv hover)

/-! ### The area that is stored -/

theorem State.dim_congr {t u : State} (h : u.gridVer = t.gridVer) : u.dim = t.dim := by
  simp only [State.dim, State.version, h]

/-- A state with the version of `s` in GRID_VER has an area of its side. -/
theorem State.dim_of_version {s t : State} (h : legalVersion s) (hver : t.gridVer = s.cfg.version) :
    t.dim = dimOf s.cfg.version.toNat := hver ▸ State.dim_of_legal (hver ▸ h.1) (hver ▸ h.2)

theorem State.gridVer_ne_zero {s t : State} (h : legalVersion s) (hver : t.gridVer = s.cfg.version) : t.gridVer ≠ 0 := by
  intro h0
  have h1 := h.1
  rw [← hver, h0] at h1
  exact absurd h1 (by decide)

/-- An area of that side that such a state stores is its active area. -/
theorem State.board_of_stored {s t : State} {g : Board} (h : legalVersion s) (hver : t.gridVer = s.cfg.version)
    (hgrid : t.grid = memoryOf g) (hg : g.shape (dimOf s.cfg.version.toNat)) : t.board = g := by
  have hdim177 := t.dim_le
  rw [← State.dim_of_version h hver] at hg
  rw [State.board, hgrid]
  exact boardOf_memoryOf (by omega) hg

theorem sameCells_of_board {t u : State} (hver : u.gridVer = t.gridVer) (hboard : u.board = t.board) : sameCells t.dim t u := by
  intro r c hr hc
  have hdim := State.dim_congr hver
  rw [← u.at_board (hdim ▸ hr) (hdim ▸ hc), hboard, t.at_board hr hc]

theorem sameCells_of_grid {t u : State} (h : u.grid = t.grid) (dim : Nat) : sameCells dim t u :=
  fun r c _ _ => by rw [State.cell, State.cell, h]

/-- build(v, e, m, t) with the version, the level and the codewords of the state (R281). -/
def State.built (s : State) (m : Nat) (test : Bool) : Board :=
  buildBoard s.cfg.version.toNat s.cfg.ecl.toNat m test s.codewords

theorem State.shape_built (s : State) (m : Nat) (test : Bool) : (s.built m test).shape (dimOf s.cfg.version.toNat) :=
  shape_buildBoard _ _ _ _ _

section
variable {s : State} (hv : legalVersion s) (hfit : 8 * s.cwLen.toNat ≤ structuralUnset s.cfg.version.toNat)
include hv hfit

theorem exec_build_fits : exec .build s = .next { s with
    seq := .idle, done := true, gridVer := s.cfg.version, grid := memoryOf (s.built s.cfg.mask.toNat s.cfg.test) } := by
  simp only [exec, execBuild, buildCheck_fits hv hfit, State.complete, State.built]

/-- BUILD completes with the built area as the active area. -/
theorem exec_build_area : ∃ t, exec .build s = .next t ∧ succeeded s t ∧ t.gridVer = s.cfg.version ∧
    t.dim = dimOf s.cfg.version.toNat ∧ t.board = s.built s.cfg.mask.toNat s.cfg.test :=
  have ht := exec_build_fits hv hfit
  ⟨_, ht, ⟨rfl, rfl, rfl, rfl, rfl⟩, rfl, State.dim_of_version hv rfl,
    State.board_of_stored hv rfl rfl (s.shape_built _ _)⟩

end

/-- Settles O42: the stored area is read back, and a built area has no unset cell. -/
theorem buildCompletesTheSymbol : Obligations.BuildCompletesTheSymbol := by
  unfold Obligations.BuildCompletesTheSymbol
  intro s hv hfit
  obtain ⟨t, ht, hsucc, hver, hdim, hboard⟩ := exec_build_area hv hfit
  refine ⟨t, ht, hsucc, exec_writesRow .build s t ht, hver, hboard, fun r c hr hc => ?_⟩
  rw [← t.at_board hr hc, hboard]
  exact at_buildBoard_ne_unset hv.1 _ _ _ _ (hdim ▸ hr) (hdim ▸ hc)

/-! ### The command sequence -/

/-- `u` holds the operands of `s` with its version in GRID_VER and the area `g`, and ERR is clear. -/
structure State.carries (s u : State) (g : Board) : Prop where
  gridVer : u.gridVer = s.cfg.version
  board : u.board = g
  cfg : u.cfg = s.cfg
  cwLen : u.cwLen = s.cwLen
  codewords : u.codewords = s.codewords
  err : u.err = false

namespace State.carries
variable {s u : State} {g : Board} (hv : legalVersion s) (hu : s.carries u g)
include hv hu

theorem dim : u.dim = dimOf s.cfg.version.toNat := State.dim_of_version hv hu.gridVer

theorem version : u.version = s.cfg.version.toNat := by
  rw [u.version_eq (hu.gridVer ▸ hv.2), hu.gridVer]

theorem shape : g.shape (dimOf s.cfg.version.toNat) := hu.board ▸ hu.dim hv ▸ u.shape_board

/-- A grid command changes the area as its pattern says. -/
theorem withGrid {i : Instr} {f : Board → Board} (hexec : exec i u = u.withGrid i f)
    (hf : (f g).shape (dimOf s.cfg.version.toNat)) : ∃ t, exec i u = .next t ∧ s.carries t (f g) := by
  rw [hexec, State.withGrid, if_neg (State.gridVer_ne_zero hv hu.gridVer), hu.board]
  exact ⟨_, rfl, hu.gridVer, State.board_of_stored hv hu.gridVer rfl hf, hu.cfg, hu.cwLen, hu.codewords, hu.err⟩

end State.carries

/-- GRID_CLEAR starts the sequence with the empty area. -/
theorem carries_gridClear {s : State} (hv : legalVersion s) : ∃ t, exec .gridClear { s with err := false } = .next t ∧
    s.carries t (Board.empty (dimOf s.cfg.version.toNat)) := by
  simp only [exec, execGridClear, cfgVersion_legal (s := { s with err := false }) hv]
  exact ⟨_, rfl, rfl, State.board_of_stored hv rfl rfl (Board.shape_empty _), rfl, rfl, rfl, rfl⟩

theorem runCommands_cons {i : Instr} {s t : State} (h : exec i s = .next t) (is : List Instr) :
    runCommands (i :: is) s = runCommands is t := by
  rw [runCommands, h]

/-- The seven commands leave the area of the build pass (R280). -/
theorem runCommands_build {s : State} (hv : legalVersion s) (hfit : 8 * s.cwLen.toNat ≤ structuralUnset s.cfg.version.toNat) :
    ∃ u, runCommands [.gridClear, .placeFinder, .placeAlign, .placeTiming, .placeFormat, .placeVersion, .mapData]
      { s with err := false } = some u ∧ s.carries u (s.built s.cfg.mask.toNat s.cfg.test) := by
  obtain ⟨u₀, h₀, c₀⟩ := carries_gridClear hv
  obtain ⟨u₁, h₁, c₁⟩ := c₀.withGrid hv (i := .placeFinder) (f := placeFinders (dimOf s.cfg.version.toNat))
    (by rw [← c₀.dim hv]; rfl) (shape_placeFinders (c₀.shape hv))
  obtain ⟨u₂, h₂, c₂⟩ := c₁.withGrid hv (i := .placeAlign) (f := placeAlignments s.cfg.version.toNat)
    (by rw [← c₁.version hv]; rfl) (shape_placeAlignments (c₁.shape hv))
  obtain ⟨u₃, h₃, c₃⟩ := c₂.withGrid hv (i := .placeTiming) (f := placeTimings (dimOf s.cfg.version.toNat))
    (by rw [← c₂.dim hv]; rfl) (shape_placeTimings (c₂.shape hv))
  obtain ⟨u₄, h₄, c₄⟩ := c₃.withGrid hv (i := .placeFormat)
    (f := placeFormats (dimOf s.cfg.version.toNat) s.cfg.ecl.toNat s.cfg.mask.toNat s.cfg.test)
    (by rw [← c₃.dim hv, ← c₃.cfg]; rfl) (shape_placeFormats (c₃.shape hv))
  obtain ⟨u₅, h₅, c₅⟩ := c₄.withGrid hv (i := .placeVersion) (f := placeVersions s.cfg.version.toNat s.cfg.test)
    (by rw [← c₄.version hv, ← c₄.cfg]; rfl) (shape_placeVersions (c₄.shape hv))
  have hroom : 8 * u₅.cwLen.toNat ≤ u₅.board.unsetCount := by
    rw [c₅.cwLen, c₅.board]
    exact hfit.trans (unsetCount_structuralBoard hv.1 s.cfg.ecl.toNat s.cfg.mask.toNat s.cfg.test).ge
  obtain ⟨u₆, h₆, c₆⟩ := c₅.withGrid hv (i := .mapData)
    (f := mapCodewords (dimOf s.cfg.version.toNat) s.cfg.mask.toNat s.codewords)
    (by rw [exec_mapData_of_fits hroom, c₅.dim hv, c₅.cfg, c₅.codewords]) (shape_mapCodewords (c₅.shape hv))
  refine ⟨u₆, ?_, c₆⟩
  rw [runCommands_cons h₀, runCommands_cons h₁, runCommands_cons h₂, runCommands_cons h₃, runCommands_cons h₄,
    runCommands_cons h₅, runCommands_cons h₆, runCommands]

/-- Settles O43: both leave the area of one build pass. -/
theorem buildEqualsTheCommandSequence : Obligations.BuildEqualsTheCommandSequence := by
  unfold Obligations.BuildEqualsTheCommandSequence
  intro s hv hfit
  obtain ⟨t, ht, -, hver, -, hboard⟩ := exec_build_area hv hfit
  obtain ⟨u, hu, hcarries⟩ := runCommands_build hv hfit
  have hsame := hcarries.gridVer.trans hver.symm
  exact ⟨t, u, ht, hu, hsame, sameCells_of_board hsame (hcarries.board.trans hboard.symm), hcarries.err⟩

end Sys2Proof.Machine
end

section
/-! SUPPORT. AUTOBUILD (44_mapper.md R282, R284): the choice of the mask, what is stored, and that the trial builds score the same
again. -/

namespace Sys2Proof.Machine

/-! ### The choice -/

/-- The first of the lowest scores, with its position. -/
def isFirstLowest (scores : List Nat) (best : Nat × Nat) : Prop :=
  scores[best.1]? = some best.2 ∧ ∀ m x, scores[m]? = some x → best.2 ≤ x ∧ (m < best.1 → best.2 < x)

/-- One more score wins only when it is strictly lower. -/
theorem isFirstLowest_append {seen : List Nat} {best : Nat × Nat} (h : isFirstLowest seen best) (x : Nat) :
    isFirstLowest (seen ++ [x]) (if best.2 > x then (seen.length, x) else best) := by
  obtain ⟨hbest, hlow⟩ := h
  have hlt : best.1 < seen.length := (List.getElem?_eq_some_iff.1 hbest).1
  have hcases : ∀ m y, (seen ++ [x])[m]? = some y → seen[m]? = some y ∨ m = seen.length ∧ y = x := fun m y hy => by
    rcases Nat.lt_or_ge m seen.length with hm | hm
    · exact .inl (by rwa [List.getElem?_append_left hm] at hy)
    · rw [List.getElem?_append_right hm, List.getElem?_singleton] at hy
      split at hy
      · exact .inr ⟨by omega, (Option.some.inj hy).symm⟩
      · cases hy
  split
  next hx =>
    refine ⟨by simp, fun m y hy => ?_⟩
    rcases hcases m y hy with hy | ⟨rfl, rfl⟩
    · have := hlow m y hy
      omega
    · exact ⟨le_rfl, fun h => absurd h (lt_irrefl _)⟩
  next hx =>
    refine ⟨by rw [List.getElem?_append_left hlt, hbest], fun m y hy => ?_⟩
    rcases hcases m y hy with hy | ⟨rfl, rfl⟩
    · exact hlow m y hy
    · omega

theorem isFirstLowest_bestFrom : ∀ {rest seen : List Nat} {best : Nat × Nat}, isFirstLowest seen best →
    isFirstLowest (seen ++ rest) (bestFrom seen.length best rest) := by
  intro rest
  induction rest with
  | nil => intro seen best h; rwa [List.append_nil]
  | cons x t ih =>
    intro seen best h
    have hnext := ih (isFirstLowest_append h x)
    rwa [List.append_assoc, List.length_append, List.singleton_append] at hnext

/-- The chosen mask is the first one with the lowest score (R282). -/
theorem isFirstLowest_chooseMask {scores : List Nat} (h : scores ≠ []) : isFirstLowest scores (chooseMask scores) := by
  obtain ⟨x, t, rfl⟩ := List.exists_cons_of_ne_nil h
  refine isFirstLowest_bestFrom (seen := [x]) ⟨rfl, fun m y hy => ?_⟩
  cases m with
  | zero => cases hy; exact ⟨le_rfl, fun h => absurd h (lt_irrefl 0)⟩
  | succ m => cases hy

/-! ### What AUTOBUILD stores -/

/-- The scores of the eight test builds (R282). -/
def State.trialScores (s : State) : List Nat :=
  (List.range 8).map (trialPenalty s.cfg.version.toNat s.cfg.ecl.toNat s.codewords)

theorem State.getElem?_trialScores (s : State) {m : Nat} (hm : m < 8) :
    s.trialScores[m]? = some (trialPenalty s.cfg.version.toNat s.cfg.ecl.toNat s.codewords m) := by
  rw [State.trialScores, List.getElem?_map, List.getElem?_range hm, Option.map_some]

/-- The chosen mask and its score. -/
def State.chosen (s : State) : Nat × Nat := chooseMask s.trialScores

theorem State.isFirstLowest_chosen (s : State) : isFirstLowest s.trialScores s.chosen :=
  isFirstLowest_chooseMask (List.ne_nil_of_length_pos (by simp [State.trialScores]))

theorem State.chosen_lt (s : State) : s.chosen.1 < 8 := by
  have hlt := (List.getElem?_eq_some_iff.1 s.isFirstLowest_chosen.1).1
  simpa [State.trialScores] using hlt

theorem State.chosen_score (s : State) :
    s.chosen.2 = trialPenalty s.cfg.version.toNat s.cfg.ecl.toNat s.codewords s.chosen.1 :=
  Option.some.inj (s.isFirstLowest_chosen.1.symm.trans (s.getElem?_trialScores s.chosen_lt))

theorem State.chosen_lowest (s : State) {m : Nat} (hm : m < 8) :
    s.chosen.2 ≤ trialPenalty s.cfg.version.toNat s.cfg.ecl.toNat s.codewords m ∧
      (m < s.chosen.1 → s.chosen.2 < trialPenalty s.cfg.version.toNat s.cfg.ecl.toNat s.codewords m) :=
  s.isFirstLowest_chosen.2 m _ (s.getElem?_trialScores hm)

/-- The score of a legal version's test build fits a register. -/
theorem toNat_trialPenalty {v : Nat} (hv : v ≤ 40) (e : Nat) (cws : List Byte) (m : Nat) :
    (BitVec.ofNat 32 (trialPenalty v e cws m)).toNat = trialPenalty v e cws m :=
  (BitVec.toNat_ofNat _ _).trans (Nat.mod_eq_of_lt (total_penaltyOf_lt (by unfold dimOf; omega) _))

section
variable {s : State} (hv : legalVersion s) (hfit : 8 * s.cwLen.toNat ≤ structuralUnset s.cfg.version.toNat)
include hv hfit

theorem exec_autobuild_fits : exec .autobuild s = .next { s with
    seq := .idle, done := true
    trialScore := Vector.ofFn (fun m => BitVec.ofNat 32 (s.trialScores.getD m.val 0))
    gridVer := s.cfg.version, grid := memoryOf (s.built s.chosen.1 false)
    res0 := BitVec.ofNat 32 s.chosen.1, res1 := BitVec.ofNat 32 s.chosen.2 } := by
  simp only [exec, execAutobuild, buildCheck_fits hv hfit, State.complete, State.built, State.chosen, State.trialScores]

/-- AUTOBUILD completes with the choice, the scores and the built area; every number fits its register. -/
theorem exec_autobuild_results : ∃ t, exec .autobuild s = .next t ∧ succeeded s t ∧ t.gridVer = s.cfg.version ∧
    t.grid = memoryOf (s.built s.chosen.1 false) ∧ t.res0.toNat = s.chosen.1 ∧ t.res1.toNat = s.chosen.2 ∧
    ∀ m : Fin 8, (t.trialScore[m.val]).toNat = trialPenalty s.cfg.version.toNat s.cfg.ecl.toNat s.codewords m.val := by
  refine ⟨_, exec_autobuild_fits hv hfit, ⟨rfl, rfl, rfl, rfl, rfl⟩, rfl, rfl, ?_, ?_, fun m => ?_⟩
  · have hmask := s.chosen_lt
    exact (BitVec.toNat_ofNat _ _).trans (Nat.mod_eq_of_lt (by omega))
  · dsimp only
    rw [s.chosen_score, toNat_trialPenalty hv.2]
  · rw [Vector.getElem_ofFn, List.getD_eq_getElem?_getD, s.getElem?_trialScores m.isLt, Option.getD_some,
      toNat_trialPenalty hv.2]

end

/-- Settles O45: the scores fit their registers, so the lowest one in them is the lowest of the test builds. -/
theorem autobuildChoosesTheBestMask : Obligations.AutobuildChoosesTheBestMask := by
  unfold Obligations.AutobuildChoosesTheBestMask
  intro s hv hfit
  obtain ⟨t, ht, hsucc, hver, hgrid, hres0, hres1, htrial⟩ := exec_autobuild_results hv hfit
  have hmask : (t.res0.setWidth 3).toNat = s.chosen.1 := by
    rw [BitVec.toNat_setWidth, hres0]
    exact Nat.mod_eq_of_lt s.chosen_lt
  have hu := exec_build_fits (s := { s with cfg := { s.cfg with mask := t.res0.setWidth 3, test := false } }) hv hfit
  refine ⟨t, _, ht, hsucc, exec_writesRow .autobuild s t ht, hres0 ▸ s.chosen_lt, htrial,
    fun m => ⟨?_, fun hm => ?_, fun hm => ?_⟩, hu, hver, sameCells_of_grid ?_ _⟩
  · rw [hres1, htrial]
    exact (s.chosen_lowest m.isLt).1
  · rw [hres1, htrial]
    exact (s.chosen_lowest m.isLt).2 (hres0 ▸ hm)
  · refine BitVec.eq_of_toNat_eq ?_
    rw [hres1, htrial, hm, hres0, s.chosen_score]
  · rw [hgrid]
    exact congrArg (fun m => memoryOf (s.built m false)) hmask.symm

/-- Settles O46: the area that BUILD stores is the scored test build, complete, so SCORE reads it without an error. -/
theorem trialScoresAreBuildThenScore : Obligations.TrialScoresAreBuildThenScore := by
  unfold Obligations.TrialScoresAreBuildThenScore
  intro s t hv hfit ht m
  obtain ⟨t', ht', -, -, -, -, -, htrial⟩ := exec_autobuild_results hv hfit
  cases ht.symm.trans ht'
  obtain ⟨u, hu, ⟨-, -, herr, -⟩, hver, hdim, hboard⟩ := exec_build_area
    (s := { s with cfg := { s.cfg with mask := BitVec.ofNat 3 m.val, test := true }, err := false }) hv hfit
  have hmask : (BitVec.ofNat 3 m.val).toNat = m.val := (BitVec.toNat_ofNat _ _).trans (Nat.mod_eq_of_lt m.isLt)
  have htest : u.board = s.built m.val true := hboard.trans (congrArg (fun k => s.built k true) hmask)
  have hfull : u.board.unsetCount = 0 := by
    rw [htest]
    exact unsetCount_buildBoard hv.1 _ _ _ _
  have hscore := exec_score_complete (State.gridVer_ne_zero hv hver) hfull
  refine ⟨_, (runCommands_cons hu _).trans (runCommands_cons hscore _), herr, BitVec.eq_of_toNat_eq ?_⟩
  rw [htrial m, htest, hdim]
  exact toNat_trialPenalty hv.2 _ _ _

/-- Settles O47: what is stored is a function of the version, the level, the mask, TEST and the codewords. -/
theorem buildsDependOnTheirOperandsOnly : Obligations.BuildsDependOnTheirOperandsOnly := by
  unfold Obligations.BuildsDependOnTheirOperandsOnly
  intro s s' hv hfit hversion hecl hlen helems
  have hv' : legalVersion s' := by rwa [legalVersion, hversion]
  have hfit' : 8 * s'.cwLen.toNat ≤ structuralUnset s'.cfg.version.toNat := by rwa [hlen, hversion]
  have hcws : s'.codewords = s.codewords := by
    rw [State.codewords, State.codewords, hlen]
    exact List.map_congr_left fun k hk => helems k (List.mem_range.1 hk)
  have hbuilt : ∀ m test, s'.built m test = s.built m test := fun m test => by
    rw [State.built, State.built, hversion, hecl, hcws]
  have hscores : s'.trialScores = s.trialScores := by rw [State.trialScores, State.trialScores, hversion, hecl, hcws]
  have hchosen : s'.chosen = s.chosen := by rw [State.chosen, State.chosen, hscores]
  refine ⟨fun hcfg => ⟨_, _, exec_build_fits hv hfit, exec_build_fits hv' hfit', hversion, sameCells_of_grid ?_ _⟩,
    _, _, exec_autobuild_fits hv hfit, exec_autobuild_fits hv' hfit', hversion, sameCells_of_grid ?_ _, ?_, ?_, ?_⟩
  · simp only [hbuilt, hcfg]
  · simp only [hbuilt, hchosen]
  · simp only [hchosen]
  · simp only [hchosen]
  · simp only [hscores]

end Sys2Proof.Machine
end

section
/-! SUPPORT. The interrupt line and the life of a command (60_exceptions.md R306, R308, R320): what raises and clears IRQ,
how an accepted word comes to run, and how a command ends. -/

namespace Sys2Proof.Machine

/-! ### IRQ -/

theorem State.irq_iff (s : State) : s.irq = true ↔ s.irqEn = true ∧ (s.done = true ∨ s.err = true) := by
  rw [State.irq, Bool.and_eq_true, Bool.or_eq_true]

/-- IRQ is low when neither DONE nor ERR is 1. -/
theorem State.irq_of_not_pending {s : State} (hd : s.done = false) (he : s.err = false) : s.irq = false := by
  rw [State.irq, hd, he]
  exact Bool.and_false _

/-- IRQ is low when IRQ_EN is 0. -/
theorem State.irq_of_disabled {s : State} (h : s.irqEn = false) : s.irq = false := by
  rw [State.irq, h]
  exact Bool.false_and _

/-- IRQ is IRQ_EN when DONE or ERR is 1. -/
theorem State.irq_of_pending {s : State} (h : s.done = true ∨ s.err = true) : s.irq = s.irqEn := by
  rw [State.irq, Bool.or_eq_true_iff.2 h, Bool.and_true]

/-- A soft reset takes IRQ low, idle or BUSY (70_reset_and_hazards.md R342). -/
theorem State.irq_softReset (s : State) : s.softReset.irq = false := by
  unfold State.softReset
  split <;> exact State.irq_of_not_pending rfl rfl

/-- A write to the address of CTRL takes effect idle or BUSY (10_state.md R32). -/
theorem State.busWrite_ctrl (s : State) (v : Word) : s.busWrite 0x00004 v = s.writeCtrl v :=
  ite_self _

/-- Settles O53: each of the four writes leaves IRQ_EN clear, or DONE and ERR. -/
theorem irqIsALevel : Obligations.IrqIsALevel := by
  unfold Obligations.IrqIsALevel
  intro s v
  refine ⟨s.irq_iff, fun hd he => ?_, fun hs => ?_, fun hreset => ?_, fun hreset hen => ?_, fun _ => rfl⟩
  · rw [s.busWrite_status]
    exact State.irq_of_not_pending (by simp [hd]) (by simp [he])
  · rw [State.busWrite_idle hs]
    exact State.irq_of_not_pending (s := s.accept v) rfl rfl
  · rw [s.busWrite_ctrl, State.writeCtrl, if_pos hreset]
    exact s.irq_softReset
  · rw [s.busWrite_ctrl, State.writeCtrl, if_neg (Bool.eq_false_iff.1 hreset)]
    exact State.irq_of_disabled hen

/-! ### How a command ends -/

/-- A command succeeds, or fails with the code and information of one of the errors (R301, R308). -/
theorem exec_succeeded_or_failed (i : Instr) (s : State) :
    ∃ t, exec i s = .next t ∧ (succeeded s t ∨ ∃ e : CmdError, failed s t e.code e.info) := by
  rcases exec_ends i s with ⟨u, hu, herr, hcode, hinfo, -⟩ | ⟨e, hfail⟩
  · exact ⟨_, hu, .inl ⟨rfl, rfl, herr, hcode, hinfo⟩⟩
  · obtain ⟨t, ht, hfailed, -⟩ := s.failUnspecified_spec i e
    exact ⟨t, hfail.trans ht, .inr ⟨e, hfailed⟩⟩

/-- No command writes IRQ_EN (30_encoding.md R117). -/
theorem exec_irqEn {i : Instr} {s t : State} (h : exec i s = .next t) : t.irqEn = s.irqEn := by
  obtain ⟨-, hirqEn, -⟩ := exec_writesRow i s t h
  exact hirqEn

/-- Settles O48: a command keeps IRQ_EN, and sets DONE or ERR. -/
theorem everyCommandEndsWithDoneOrErr : Obligations.EveryCommandEndsWithDoneOrErr := by
  unfold Obligations.EveryCommandEndsWithDoneOrErr
  intro i s
  obtain ⟨t, ht, hends⟩ := exec_succeeded_or_failed i s
  rw [← exec_irqEn ht]
  refine ⟨t, ht, State.irq_of_pending ?_, ?_⟩
  · rcases hends with ⟨-, hdone, -⟩ | ⟨e, -, -, herr, -⟩
    · exact .inl hdone
    · exact .inr herr
  · exact hends.imp_right fun ⟨e, hfailed⟩ => ⟨e.code, e.info, e.code_ne_none, hfailed⟩

/-! ### From acceptance to execution -/

/-- A word that decodes runs as its command. -/
theorem State.runWord_ok (s : State) {w : Word} {i : Instr} (h : decode w = .ok i) : s.runWord w = exec i s := by
  rw [State.runWord, h]

/-- A fetched word is pending, with no host action to land before it runs (log 17). -/
theorem State.withFetchWord_seq (s : State) (w : Word) : (s.withFetchWord 32 w.toNat).seq = .busy w 0 := by
  simp only [State.withFetchWord, BitVec.ofNat_toNat, Nat.mod_eq_of_lt w.isLt, BitVec.setWidth_eq]

/-- Settles O6: a completion step is `runWord` of the pending word, which the decoder decides. -/
theorem stepRunsTheDecodedCommand : Obligations.StepRunsTheDecodedCommand := by
  unfold Obligations.StepRunsTheDecodedCommand
  refine ⟨fun s w n i hseq hnow hdec => ?_, fun s w n e hseq hnow hdec => ?_, fun s w i hdec => ?_⟩
  · rw [step_completes hseq hnow, s.runWord_ok hdec]
  · rw [step_completes hseq hnow, s.runWord_error hdec]
  · rw [step_completes (s.withFetchWord_seq w) (completesNow_zero _), State.runWord_ok _ hdec]

/-- The four byte addresses of word 3 name CMD (20_memory.md R82, R84). -/
theorem targetOf_eq_cmd {a : BusAddr} (h : a.toNat / 4 = 3) : targetOf a = .cmd := by
  rw [targetOf, h]
  rfl

/-- Settles O7: an idle step lets the write land, which accepts the word with a free number of landings. -/
theorem cmdWriteIsAccepted : Obligations.CmdWriteIsAccepted := by
  unfold Obligations.CmdWriteIsAccepted
  intro s a w rest hs hh ha
  refine ⟨Config.latency s.draws w, ?_⟩
  rw [step_idle_cons hs hh, State.serve, State.busWrite_idle (s := { s with host := rest }) hs, targetOf_eq_cmd ha]
  rfl

end Sys2Proof.Machine
end

section
/-! SUPPORT. The soft reset (70_reset_and_hazards.md R342): which destinations an abort makes unspecified, and that the
registers take their reset values while the memories stay. -/

namespace Sys2Proof.Machine

@[simp] theorem State.elem_resetRegisters (s : State) (id : MemId) (k : Nat) : s.resetRegisters.elem id k = s.elem id k := by
  cases id <;> rfl

@[simp] theorem State.cell_resetRegisters (s : State) (r c : Nat) : s.resetRegisters.cell r c = s.cell r c := rfl

/-- CW_IN is no command's destination. -/
theorem State.spoil_cwIn (ds : List Dest) : ∀ s : State, (s.spoil ds).cwIn = s.cwIn := by
  induction ds with
  | nil => exact fun _ => rfl
  | cons d t ih => exact fun s => (ih (s.spoilOne d)).trans (by cases d <;> rfl)

theorem State.softReset_idle {s : State} (hs : s.seq = .idle) : s.softReset = s.resetRegisters := by
  rw [State.softReset, hs]

theorem State.softReset_busy {s : State} {w : Word} {n : Nat} (hs : s.seq = .busy w n) :
    s.softReset = (s.spoil (abortedDests w)).resetRegisters := by
  rw [State.softReset, hs]

/-- Idle or BUSY, a soft reset spoils some destinations, none when idle, and then resets the registers. -/
theorem State.softReset_spoils (s : State) : ∃ ds, s.softReset = (s.spoil ds).resetRegisters := by
  cases hs : s.seq with
  | idle => exact ⟨[], State.softReset_idle hs⟩
  | busy w n => exact ⟨abortedDests w, State.softReset_busy hs⟩

/-- The registers after a soft reset; the host's side stays. -/
theorem State.softReset_registers (s : State) : s.softReset = { State.reset with
    polyA := s.softReset.polyA
    polyB := s.softReset.polyB
    polyR := s.softReset.polyR
    cwIn := s.softReset.cwIn
    cwOut := s.softReset.cwOut
    grid := s.softReset.grid
    draws := s.softReset.draws
    host := s.host
    busData := s.busData } := by
  obtain ⟨ds, h⟩ := s.softReset_spoils
  obtain ⟨-, -, -, -, -, -, -, hhost, hbus⟩ := s.spoil_frame ds
  rw [h, ← hhost, ← hbus]
  rfl

theorem State.softReset_cwIn (s : State) : s.softReset.cwIn = s.cwIn := by
  obtain ⟨ds, h⟩ := s.softReset_spoils
  rw [h]
  exact s.spoil_cwIn ds

/-- A CTRL write with bit 0 = 1 is a soft reset, whatever its bit 1 is. -/
theorem State.busWrite_softReset (s : State) {v : Word} (h : v.getLsbD 0 = true) : s.busWrite 0x00004 v = s.softReset := by
  rw [s.busWrite_ctrl, State.writeCtrl, if_pos h]

/-- Settles O57: an idle soft reset only resets the registers; a BUSY one first spoils the aborted command's row. -/
theorem softResetResetsTheRegisters : Obligations.SoftResetResetsTheRegisters := by
  unfold Obligations.SoftResetResetsTheRegisters
  intro s v hv
  simp only [s.busWrite_softReset hv]
  refine ⟨s.softReset_registers, s.irq_softReset, s.softReset_cwIn, fun hs => ?_, fun w n hs d hd k => ?_⟩
  · rw [State.softReset_idle hs]
    exact ⟨rfl, rfl, rfl, rfl, rfl⟩
  · simp only [State.softReset_busy hs, State.elem_resetRegisters, State.cell_resetRegisters]
    obtain ⟨hkept, -⟩ := s.spoil_frame (abortedDests w)
    refine ⟨?_, ?_, ?_, ?_, ?_⟩ <;> rintro rfl
    · exact (hkept _ hd).2 k
    · exact (hkept _ hd).2 k
    · exact (hkept _ hd).2 k
    · exact hkept _ hd k
    · exact hkept _ hd k

end Sys2Proof.Machine
end
